-- ==== Sys2Proof/Word.lean ====
section
/-! DEFINITION. The bit-vector types of the block: what the spec treats as bits. -/

namespace Sys2Proof

/-- A command word of the P port: 68 bits, OPC in 67:64 and PAYLOAD in 63:0 (R90). -/
abbrev CmdWord := BitVec 68

/-- A StereoSample, one slot entry: 32 bits, channel 1 in 31:16 and channel 2 in 15:0 (R62). -/
abbrev Sample := BitVec 32

/-- One channel of a StereoSample: a 16-bit two's-complement pattern (R7, R62). -/
abbrev Channel := BitVec 16

/-- A raw decoded sample of the HOST's decoder: 32 bits two's complement (R272, R274). -/
abbrev Raw := BitVec 32

/-- The 16-bit STATUS output (R43). -/
abbrev StatusWord := BitVec 16

end Sys2Proof
end

