-- ==== Sys2Proof/Syntax.lean ====
section
/-! DEFINITION. The commands of the block: one constructor for each row of spec/opcode_table.json (R91). -/

namespace Sys2Proof

/-- The eleven commands. The operands of format FS are the two channels (R93), those of format FC the nominal
rate in Hz and the Q16.16 calibration ratio (R94). The field types carry every range the encoding has, so that
every term is a well-formed command: a sample outside [-32768, 32767] cannot be written down (R93). -/
inductive Instr where
  | bufReset
  | bufPut (ch1 ch2 : Channel)
  | bufPoll
  | bufGet
  | dacWrite (ch1 ch2 : Channel)
  | drvOpen
  | drvRelease
  | clkStart (rate calq : BitVec 32)
  | clkStop
  | clkDisable
  | clkDelete
  deriving DecidableEq, Repr, Inhabited

end Sys2Proof
end

