-- ==== Sys2Proof/Machine/Script.lean ====
section
/-! DEFINITION. What the HOST can run and what can happen next: command scripts and their assembler (R100 to R104),
the decoded stream and the track (R272, R275), and the moves of the agents (R11). -/

namespace Sys2Proof.Machine

/-- A sample operand of a script: a signed decimal, or a 16-bit hex literal taken as its bit pattern (R100). -/
inductive SampleLit where
  | dec (n : Int)
  | hex (b : Channel)
  deriving DecidableEq, Repr, Inhabited

/-- The bit pattern a sample operand stands for (R100; two's complement, R62). -/
def SampleLit.value : SampleLit → Channel
  | .dec n => BitVec.ofInt 16 n
  | .hex b => b

/-- One operation of a HOST script: a P-port command, or one of the two control lines (R100).
Labels are numbers here: a label's spelling has no effect. -/
inductive ScriptOp where
  | bufReset
  | bufPut (ch1 ch2 : SampleLit)
  | bufPoll
  | drvOpen
  | drvRelease
  | clkStart (rate calq : Nat)
  | clkStop
  | clkDisable
  | clkDelete
  | jz (label : Nat)
  | jmp (label : Nat)
  deriving DecidableEq, Repr, Inhabited

/-- One line of a script: an optional label and an operation (R100). R100's form requires a mnemonic, yet program P1 of
95_test_vectors.md ends with a label alone: DESIGN CHOICE (log 25), a line may hold no operation, and such a line is no
command and only hands on to the next. -/
structure ScriptLine where
  label : Option Nat := none
  op : Option ScriptOp
  deriving DecidableEq, Repr, Inhabited

/-- The command a script operation assembles to; the control lines are no block commands (R100). -/
def ScriptOp.asm : ScriptOp → Option Instr
  | .bufReset => some .bufReset
  | .bufPut a b => some (.bufPut a.value b.value)
  | .bufPoll => some .bufPoll
  | .drvOpen => some .drvOpen
  | .drvRelease => some .drvRelease
  | .clkStart rate calq => some (.clkStart (BitVec.ofNat 32 rate) (BitVec.ofNat 32 calq))
  | .clkStop => some .clkStop
  | .clkDisable => some .clkDisable
  | .clkDelete => some .clkDelete
  | .jz _ => none
  | .jmp _ => none

/-- The index of the line that carries a label; the script's length if no line does. -/
def labelIndex (lines : List ScriptLine) (l : Nat) : Nat :=
  lines.findIdx (fun line => line.label == some l)

/-- The pseudo-command CLK_DESTROY: stop, disable, delete, in that order (R101). -/
def clkDestroy : List Instr := [.clkStop, .clkDisable, .clkDelete]

/-- The pseudo-command SESSION_BEGIN rate, calq (R102). -/
def sessionBegin (rate calq : BitVec 32) : List Instr := [.drvOpen, .bufReset, .clkStart rate calq]

/-- The pseudo-command SESSION_END (R103). -/
def sessionEnd : List Instr := [.clkStop, .clkDisable, .clkDelete, .drvRelease]

/-- The pseudo-command POLL_WAIT label (R104). -/
def pollWait (l : Nat) : List ScriptLine := [⟨some l, some .bufPoll⟩, ⟨none, some (.jz l)⟩]

/-- The values of the external command signal CMD (R271). -/
inductive Command where
  | idle
  | play
  | stop
  deriving DecidableEq, Repr, Inhabited

/-- What one call of the decoder's decode_one_block gives: a block of raw sample pairs, or a decoder error
(R272; an error stays on the HOST side, D40). -/
inductive Decoded where
  | block (samples : List (Raw × Raw))
  | error
  deriving DecidableEq, Repr, Inhabited

/-- The decoded stream, a parameter of the model: the metadata the HOST uses and a finite list of blocks (R272). -/
structure Stream where
  bitDepth : Nat
  channelCount : Nat
  blocks : List Decoded
  deriving DecidableEq, Repr, Inhabited

/-- What the HOST runs (R45: a parameter of the step relation). `free` is a HOST whose every command word is chosen
outside the model, `script` a command script (R100), `track` one call of play_track (R275), with the stream its
metadata-decode phase finds; no stream where that phase fails. DESIGN CHOICE (log 37): the spec gives no path for a
decoder error before SESSION_BEGIN, and such a track ends with no command issued. -/
inductive Program where
  | free
  | script (lines : List ScriptLine)
  | track (rate calq : BitVec 32) (stream : Option Stream)
  deriving DecidableEq, Repr, Inhabited

/-- Where the HOST's program stands: a script's line, or a point of play_track and feed_loop (R273, R275). -/
inductive Stage where
  /-- No program: ISSUE and COMPLETE moves come from outside. -/
  | free
  /-- A script, at a line. -/
  | script (line : Nat)
  /-- SESSION_BEGIN: the commands still to issue. -/
  | opening (rest : List Instr)
  /-- The top of feed_loop: read CMD, then decode a block. -/
  | top
  /-- POLL_WAIT before this block's puts. -/
  | poll (block : List (Raw × Raw))
  /-- The drain: the samples of the block still to put. -/
  | drain (block : List (Raw × Raw))
  /-- SESSION_END: the commands still to issue. -/
  | closing (rest : List Instr)
  /-- The program has no next command. -/
  | finished
  deriving DecidableEq, Repr, Inhabited

/-- How a track ended (R273, R276): its last block was drained, CMD said stop, CMD said play, or the decoder failed. -/
inductive TrackEnd where
  | complete
  | stopped
  | restart
  | decoderError
  deriving DecidableEq, Repr, Inhabited

/-- The HOST agent: its program and where it stands, the response it last took, the blocks not yet decoded, and every
value written so far to the two external signals, newest first (R270 to R276). -/
structure Producer where
  program : Program := .free
  stage : Stage := .free
  /-- A command of the program is outstanding: issued, its response not yet taken (R245). -/
  awaiting : Bool := false
  /-- The RESP of the last completed command (R100, R244). -/
  lastResp : Bool := false
  blocks : List Decoded := []
  trackEnd : Option TrackEnd := none
  cmdLog : List Command := [.idle]
  volLog : List Int := [0]
  deriving DecidableEq, Repr, Inhabited

/-- One move of one agent (R11). Which move comes next is open: any enabled one may be taken. -/
inductive Move where
  /-- HOST without a program: offer this command word (ISSUE, R242). -/
  | issue (w : CmdWord)
  /-- HOST without a program: take the response (COMPLETE, R244). -/
  | complete
  /-- HOST: read STATUS (R43). -/
  | readStatus
  /-- HOST: assert rst_n (R340). -/
  | rstN
  /-- HOST: begin a program, for instance call play_track (R275). -/
  | start (p : Program)
  /-- HOST: the next step of its program (R273, R275, R100). -/
  | host
  /-- The control surface writes CMD (R271). -/
  | writeCmd (c : Command)
  /-- The control surface writes VOL (R271). -/
  | writeVol (v : Int)
  /-- APPLY: perform the pending command (R243). -/
  | apply
  /-- TIMER: one count of the timer, which raises the alarm when it reaches ALARM (R203). -/
  | count
  /-- TIMER: a TICK at any point while RUNNING (R204, R205). -/
  | tick
  /-- SEQ: one GPIO write of the frame (R164). -/
  | seq
  /-- SYNC: update the advisory copy of RS (R250). -/
  | sync
  deriving DecidableEq, Repr, Inhabited

end Sys2Proof.Machine
end

