-- ==== Sys2Proof/Config.lean ====
section
/-! DEFINITION. What an implementation fixes (the OPEN parameters, R6 to R10, R42) and the free values: the constants
without a body that stand for what the spec leaves open. -/

namespace Sys2Proof

/-- OVERRUN_MODEL: what becomes of a tick that arrives during a frame (R10, R206). -/
inductive OverrunModel where
  | excluded
  | fault
  deriving DecidableEq, Repr, Inhabited

/-- The elaboration parameters. No step changes one (R42). -/
structure Config where
  /-- BUF_N, the capacity of each slot (R6). -/
  bufN : Nat
  /-- PIN_CLK, PIN_D1, PIN_D2 and PIN_LE, the GPIO line numbers (R8). -/
  pinClk : Nat
  pinD1 : Nat
  pinD2 : Nat
  pinLe : Nat
  /-- VALID_OUT_PINS (R8). -/
  validOutPins : List Nat
  /-- TIMER_RES_HZ (R9). -/
  timerResHz : Nat
  /-- TIMER_WIDTH, in bits (R9). -/
  timerWidth : Nat
  /-- OVERRUN_MODEL (R10). -/
  overrun : OverrunModel
  /-- GPIO_SET_CLR_PORT: the physical set register and the physical clear register (R171). -/
  gpioSetClrPort : Nat × Nat
  /-- PORT_BASE: where the P port sits on a system bus; no rule of the block uses it (R67). -/
  portBase : Nat
  /-- SEQ_FRAME_TIME, the duration of the 65 writes of a frame, in nanoseconds; only the timing premise uses it (R350). -/
  seqFrameTime : Nat
  deriving DecidableEq, Repr, Inhabited

/-- OSF, the oversampling factor: the constant 1 (R9). -/
def Config.osf : Nat := 1

/-- The parameters of `State.reset`: those the spec's test vectors assume (95_test_vectors.md), four pins that are
valid and distinct among them. DESIGN CHOICE (log 1): the spec leaves every one of them open. -/
def Config.vectors : Config where
  bufN := 4
  pinClk := 0
  pinD1 := 1
  pinD2 := 2
  pinLe := 3
  validOutPins := [0, 1, 2, 3]
  timerResHz := 1000000
  timerWidth := 64
  overrun := .excluded
  gpioSetClrPort := (0, 1)
  portBase := 0
  seqFrameTime := 0

/-- FREE VALUE (log 2): the sample `draw()` gives for a slot entry no BUF_PUT has written since rst_n (R25, R126). -/
opaque Config.freeSample : Nat → Sample

/-- FREE VALUE (log 3): the bits a HOST's STATUS read shows where the field is not exact (R43). -/
opaque Config.freeStatus : Nat → StatusWord

/-- FREE VALUE (log 4): which of the values written so far a read of CMD or VOL gives (R271). -/
opaque Config.freePick : Nat → Nat

/-- FREE VALUE (log 5): the move taken next where the state's schedule names none (R11: any enabled step may be). -/
opaque Config.freeMove : Nat → Machine.Move

end Sys2Proof
end

