-- ==== Sys2Proof/WellFormed.lean ====
section
/-! DEFINITION. The checks a model-level form must pass: the configuration (R344), a HOST script (R100) and a decoded
stream (R279). A command needs none: its types carry every range of its encoding (R93, R94). -/

namespace Sys2Proof

/-- The conditions the elaboration parameters must meet before any rule holds (R344). OSF = 1 and the two values of
OVERRUN_MODEL hold by construction; the pins are checked at DRV_OPEN, not here. -/
def Config.valid (c : Config) : Bool :=
  decide (1 ≤ c.bufN) && decide (1 ≤ c.timerResHz) && decide (1 ≤ c.timerWidth)

namespace Machine

/-- A decimal sample operand lies in [-32768, 32767] (R100). -/
def SampleLit.wf : SampleLit → Bool
  | .dec n => decide (-32768 ≤ n) && decide (n ≤ 32767)
  | .hex _ => true

/-- The operands of a script line are in range, and its label, where it jumps, is one the script defines (R100). -/
def ScriptOp.wf (labels : List (Option Nat)) : ScriptOp → Bool
  | .bufPut a b => a.wf && b.wf
  | .clkStart rate calq => decide (rate < 2 ^ 32) && decide (calq < 2 ^ 32)
  | .jz l => labels.contains (some l)
  | .jmp l => labels.contains (some l)
  | .bufReset => true
  | .bufPoll => true
  | .drvOpen => true
  | .drvRelease => true
  | .clkStop => true
  | .clkDisable => true
  | .clkDelete => true

/-- A script is well formed: every operation of it is. A label may stand on a line of its own (log 25). -/
def scriptWf (lines : List ScriptLine) : Bool :=
  lines.all (fun line => line.op.all (ScriptOp.wf (lines.map ScriptLine.label)))

/-- A stream can be fed: it has two channels (R279). -/
def Stream.wf (st : Stream) : Bool := st.channelCount == 2

end Machine
end Sys2Proof
end

