-- ==== Sys2Proof/Decode.lean ====
section
/-! DEFINITION. The command decoder (R90 to R97) and, after it, the encoder of the same formats. -/

namespace Sys2Proof

/-- Why a command word selects no command; each is ILLEGAL_CMD at APPLY (R95, R96). -/
inductive Reject where
  /-- The opcode is 0x0 or 0xC to 0xF (R96). -/
  | reservedOpcode (opc : BitVec 4)
  /-- A reserved payload bit of the opcode's format is set (R95). -/
  | reservedPayload (opc : BitVec 4)
  deriving DecidableEq, Repr, Inhabited

/-- OPC, bits 67:64 (R90). -/
def opcOf (w : CmdWord) : BitVec 4 := w.extractLsb' 64 4

/-- PAYLOAD, bits 63:0 (R90). -/
def payloadOf (w : CmdWord) : BitVec 64 := w.extractLsb' 0 64

/-- Format F0: no operand, all 64 payload bits reserved (R92, R95). -/
def decodeF0 (w : CmdWord) (i : Instr) : Except Reject Instr :=
  if payloadOf w = 0 then .ok i else .error (.reservedPayload (opcOf w))

/-- Format FS: CH1 in 31:16, CH2 in 15:0, bits 63:32 reserved (R92, R93, R95). -/
def decodeFS (w : CmdWord) (mk : Channel → Channel → Instr) : Except Reject Instr :=
  if w.extractLsb' 32 32 = 0 then .ok (mk (w.extractLsb' 16 16) (w.extractLsb' 0 16))
  else .error (.reservedPayload (opcOf w))

/-- Format FC: CALQ in 63:32, RATE in 31:0, nothing reserved (R92, R94, R95). -/
def decodeFC (w : CmdWord) : Except Reject Instr :=
  .ok (.clkStart (w.extractLsb' 0 32) (w.extractLsb' 32 32))

/-- The decoder, total on every 68-bit word: the opcode first, then the reserved payload bits of its format (R91, R97). -/
def decode (w : CmdWord) : Except Reject Instr :=
  match (opcOf w).toNat with
  | 0x1 => decodeF0 w .bufReset
  | 0x2 => decodeFS w .bufPut
  | 0x3 => decodeF0 w .bufPoll
  | 0x4 => decodeF0 w .bufGet
  | 0x5 => decodeFS w .dacWrite
  | 0x6 => decodeF0 w .drvOpen
  | 0x7 => decodeF0 w .drvRelease
  | 0x8 => decodeFC w
  | 0x9 => decodeF0 w .clkStop
  | 0xA => decodeF0 w .clkDisable
  | 0xB => decodeF0 w .clkDelete
  | _ => .error (.reservedOpcode (opcOf w))

/-- The instruction the decoder reads from a table row's word. A command word has 68 bits; a number that needs more is
no command word. The block transfers a word whole, so no byte order enters (R63). -/
def decodeTableWord (nbits w : Nat) : Option Instr :=
  let v := w % 2 ^ nbits
  if v < 2 ^ 68 then
    match decode (BitVec.ofNat 68 v) with
    | .ok i => some i
    | .error _ => none
  else none

/-- The opcode of a command (R91). -/
def opcode : Instr → BitVec 4
  | .bufReset => 0x1
  | .bufPut _ _ => 0x2
  | .bufPoll => 0x3
  | .bufGet => 0x4
  | .dacWrite _ _ => 0x5
  | .drvOpen => 0x6
  | .drvRelease => 0x7
  | .clkStart _ _ => 0x8
  | .clkStop => 0x9
  | .clkDisable => 0xA
  | .clkDelete => 0xB

/-- The payload of a command: 0 for F0, `0 : CH1 : CH2` for FS, `CALQ : RATE` for FC (R92). -/
def payload : Instr → BitVec 64
  | .bufPut ch1 ch2 => (0#32 ++ (ch1 ++ ch2 : BitVec 32) : BitVec 64)
  | .dacWrite ch1 ch2 => (0#32 ++ (ch1 ++ ch2 : BitVec 32) : BitVec 64)
  | .clkStart rate calq => (calq ++ rate : BitVec 64)
  | .bufReset => 0
  | .bufPoll => 0
  | .bufGet => 0
  | .drvOpen => 0
  | .drvRelease => 0
  | .clkStop => 0
  | .clkDisable => 0
  | .clkDelete => 0

/-- The command word of a command (R90); the assembler emits it (R100). -/
def encode (i : Instr) : CmdWord := (opcode i ++ payload i : BitVec 68)

/-- The port column of R91: BUF_GET and DAC_WRITE are C only, every other command is a P-port command. -/
def cOnly : Instr → Bool
  | .bufGet => true
  | .dacWrite _ _ => true
  | .bufReset => false
  | .bufPut _ _ => false
  | .bufPoll => false
  | .drvOpen => false
  | .drvRelease => false
  | .clkStart _ _ => false
  | .clkStop => false
  | .clkDisable => false
  | .clkDelete => false

end Sys2Proof
end

