-- ==== Sys2Proof/Machine/State.lean ====
section
/-! DEFINITION. The state of the block and of its HOST as plain data, and its value after rst_n (R20 to R46). -/

namespace Sys2Proof.Machine

/-- The index of a slot (R20). -/
inductive Slot where
  | s0
  | s1
  deriving DecidableEq, Repr, Inhabited

/-- The driver lifecycle DRV (R27). -/
inductive Drv where
  | closed
  | opened
  deriving DecidableEq, Repr, Inhabited

/-- The timer lifecycle CLK_STATE (R33). -/
inductive ClkState where
  | none
  | running
  | stopped
  | disabled
  deriving DecidableEq, Repr, Inhabited

/-- The mailbox phase CDC_PHASE (R36). -/
inductive Phase where
  | idle
  | pending
  | done
  deriving DecidableEq, Repr, Inhabited

/-- The level of a GPIO line; `z` is released (R31). -/
inductive Level where
  | low
  | high
  | z
  deriving DecidableEq, Repr, Inhabited

/-- The levels of the four lines PIN[CLK], PIN[D1], PIN[D2] and PIN[LE] (R31). -/
structure Pins where
  clk : Level
  d1 : Level
  d2 : Level
  le : Level
  deriving DecidableEq, Repr, Inhabited

/-- A logical mask: a subset of the four lines (R162). -/
structure Mask where
  clk : Bool := false
  d1 : Bool := false
  d2 : Bool := false
  le : Bool := false
  deriving DecidableEq, Repr, Inhabited

/-- The kind of a GPIO group write (R162). -/
inductive WriteKind where
  | set
  | clr
  deriving DecidableEq, Repr, Inhabited

/-- One entry of TRACE: (OPEN), (RELEASE) or a group write (R32, R161, R162, R170). -/
inductive TraceEntry where
  | opened
  | released
  | write (kind : WriteKind) (mask : Mask)
  deriving DecidableEq, Repr, Inhabited

/-- The fault codes of ERR (R300). -/
inductive FaultCode where
  | illegalCmd
  | portViolation
  | lifecycle
  | resetWhileActive
  | timerConfig
  | gpioConfig
  | tickOverrun
  deriving DecidableEq, Repr, Inhabited

/-- The slot memory: the entries a BUF_PUT has written since rst_n, by flat address s*BUF_N + k (R61), addresses
strictly rising. An entry that is not listed is one nothing has written: its WRITTEN bit is 0 and a read of it is
`draw()` (R25, R26). So the list is at once SLOT and the ghost WRITTEN. -/
abbrev Memory := List (Nat × Sample)

/-- BUF: RS, RP, FL[0], FL[1], ND and SLOT with WRITTEN (R20 to R26). -/
structure BufUnit where
  rs : Slot
  rp : Nat
  fl0 : Nat
  fl1 : Nat
  nd : Bool
  slots : Memory
  deriving DecidableEq, Repr, Inhabited

/-- SEQ: DRV, SEQ_BUSY, SEQ_STEP, SEQ_DATA, PIN and TRACE, oldest entry first (R27 to R32). -/
structure SeqUnit where
  drv : Drv
  busy : Bool
  step : Nat
  data : Sample
  pins : Pins
  trace : List TraceEntry
  deriving DecidableEq, Repr, Inhabited

/-- CLK: CLK_STATE, ALARM and TCOUNT, the last two of TIMER_WIDTH bits (R33 to R35). -/
structure ClkUnit where
  state : ClkState
  alarm : Nat
  tcount : Nat
  deriving DecidableEq, Repr, Inhabited

/-- CDC: CDC_PHASE, MBOX, RESP, REQ_T, ACK_T and RS_SYNC (R36 to R40). -/
structure CdcUnit where
  phase : Phase
  mbox : CmdWord
  resp : Bool
  reqT : Bool
  ackT : Bool
  rsSync : Slot
  deriving DecidableEq, Repr, Inhabited

/-- The whole machine: the elaboration parameters, the four units, ERR, the HOST, and the model's own fields (the
value BUF_GET returned, the schedule and the two counters the free values are applied to). -/
structure State where
  /-- The elaboration parameters (R42). No step writes them. -/
  cfg : Config
  buf : BufUnit
  seq : SeqUnit
  clk : ClkUnit
  cdc : CdcUnit
  /-- ERR, 0 meaning no fault (R41). -/
  err : BitVec 4
  /-- The model's own: the sample the last BUF_GET returned, on its way to SEQ (R126, R205). -/
  getData : Sample
  /-- A STATUS read since rst_n has returned ERR (R43). -/
  errSeen : Bool
  /-- The HOST's own copy of the STATUS word it last read (R43). -/
  statusSeen : StatusWord
  /-- The HOST (R270 to R276). -/
  producer : Producer
  /-- The model's own: the moves chosen from outside, next first; where it is empty the free schedule chooses (R11, R45). -/
  schedule : List Move
  /-- The model's own: how many moves the free schedule has chosen. -/
  moves : Nat
  /-- The model's own: how many free values have been drawn. -/
  draws : Nat
  deriving DecidableEq, Repr, Inhabited

/-- Why the machine stops with a fault of the model. The block's own faults are no stops: each takes the entry of
R302, a next state with ERR set. -/
inductive Fault where
  /-- Raised by BUF_GET in a state where the entry it addresses does not exist (offset at or above BUF_N, R61). No run
  reaches such a state (R126, R129). Safe. -/
  | slotOutOfRange
  deriving DecidableEq, Repr, Inhabited

/-- Why the model gives a form no meaning (R14: model-level forms that no command word can spell). -/
inductive Refusal where
  /-- An instruction that has no meaning yet; raised by no arm of exec. Safe. -/
  | notModelled (mnemonic : String)
  /-- Raised by every step of a machine whose configuration breaks R344. Safe. -/
  | badConfiguration
  /-- Raised where the HOST would begin a track whose channel_count is not 2 (R279). Safe. -/
  | channelCountNotTwo
  /-- Raised where the HOST would begin a script with an operand out of range or a label nothing defines (R100). Safe. -/
  | illFormedScript
  deriving DecidableEq, Repr, Inhabited

/-- The step's outcome. -/
abbrev Outcome := Host.Outcome State Fault Refusal

/-- The state after rst_n for given parameters (R46, R341). The spec leaves SEQ_DATA, MBOX, the last BUF_GET's value
and the HOST's STATUS copy open: DESIGN CHOICE, zero (log 6). -/
def State.resetWith (c : Config) : State where
  cfg := c
  buf := { rs := .s0, rp := 0, fl0 := c.bufN, fl1 := c.bufN, nd := true, slots := [] }
  seq := { drv := .closed, busy := false, step := 0, data := 0,
           pins := { clk := .z, d1 := .z, d2 := .z, le := .z }, trace := [] }
  clk := { state := .none, alarm := 0, tcount := 0 }
  cdc := { phase := .idle, mbox := 0, resp := false, reqT := false, ackT := false, rsSync := .s0 }
  err := 0
  getData := 0
  errSeen := false
  statusSeen := 0
  producer := {}
  schedule := []
  moves := 0
  draws := 0

/-- The machine right after power-on reset, with the parameters of the spec's test vectors (log 1), a HOST without a
program and no move scheduled (log 7). -/
def State.reset : State := State.resetWith Config.vectors

end Sys2Proof.Machine
end

