-- ==== Sys2Proof/Machine/Ops.lean ====
section
/-! DEFINITION. The named operations over memory and registers: slot memory, the buffer unit, pins and trace, the
response of a command, the entry into a fault (R302) and the way out of it, rst_n (R305, R340). -/

namespace Sys2Proof.Machine

/-! ### Slot memory (R25, R26, R60, R61) -/

/-- The entry at a flat address; none where nothing has written it since rst_n. -/
def memRead : Memory → Nat → Option Sample
  | [], _ => none
  | (b, v) :: m, a => if a = b then some v else memRead m a

/-- Writes one whole entry (R65), keeping the addresses rising. -/
def memWrite : Memory → Nat → Sample → Memory
  | [], a, v => [(a, v)]
  | (b, u) :: m, a, v =>
    if a < b then (a, v) :: (b, u) :: m
    else if a = b then (a, v) :: m
    else (b, u) :: memWrite m a v

/-- The canonical form: addresses strictly rising. Every listed entry is a written one, so none equals what an
unlisted address reads as. -/
def Memory.wf : Memory → Bool
  | [] => true
  | [_] => true
  | (a, _) :: (b, v) :: m => decide (a < b) && Memory.wf ((b, v) :: m)

/-! ### The buffer unit (R20 to R24, R121 to R127) -/

/-- 1 - s (R21). -/
def Slot.other : Slot → Slot
  | .s0 => .s1
  | .s1 => .s0

/-- The slot's index as a number. -/
def Slot.num : Slot → Nat
  | .s0 => 0
  | .s1 => 1

/-- The slot's index as a bit. -/
def Slot.bit : Slot → Bool
  | .s0 => false
  | .s1 => true

/-- The flat address s*BUF_N + k of entry k of slot s (R61). -/
def slotAddr (n : Nat) (s : Slot) (k : Nat) : Nat := s.num * n + k

/-- WS = 1 - RS, derived and never stored (R21). -/
def BufUnit.ws (b : BufUnit) : Slot := b.rs.other

/-- FL[s] (R23). -/
def BufUnit.fl (b : BufUnit) : Slot → Nat
  | .s0 => b.fl0
  | .s1 => b.fl1

/-- FL[s] <- n (R23). -/
def BufUnit.setFl (b : BufUnit) : Slot → Nat → BufUnit
  | .s0, n => { b with fl0 := n }
  | .s1, n => { b with fl1 := n }

/-- WRITTEN[s][k] (R26): the entry is listed. -/
def BufUnit.written (n : Nat) (b : BufUnit) (s : Slot) (k : Nat) : Bool :=
  (memRead b.slots (slotAddr n s k)).isSome

/-- The effect of BUF_RESET on the buffer: its initial state, slot contents kept (R121). -/
def BufUnit.reset (n : Nat) (b : BufUnit) : BufUnit :=
  { b with rs := .s0, rp := 0, fl0 := n, fl1 := n, nd := true }

/-- The effect of BUF_PUT on the buffer: append to the write slot, or discard at capacity (R123, R124). -/
def BufUnit.put (n : Nat) (v : Sample) (b : BufUnit) : BufUnit :=
  if b.fl b.ws < n then
    { b with slots := memWrite b.slots (slotAddr n b.ws (b.fl b.ws)) v }.setFl b.ws (b.fl b.ws + 1)
  else b

/-- The effect of a BUF_POLL that returns 1: the edge is consumed and the write slot emptied (R125). -/
def BufUnit.poll (b : BufUnit) : BufUnit :=
  if b.nd then { b with nd := false }.setFl b.ws 0 else b

/-- The read slot is exhausted, so that BUF_GET swaps (R126). -/
def BufUnit.exhausted (b : BufUnit) : Bool := decide (b.fl b.rs ≤ b.rp)

/-- The slot swap of BUF_GET, taken when the read slot is exhausted (R126). -/
def BufUnit.swapIfExhausted (b : BufUnit) : BufUnit :=
  if b.exhausted then { b with rs := b.rs.other, rp := 0, nd := true } else b

/-- RP <- RP + 1 (R126). -/
def BufUnit.advance (b : BufUnit) : BufUnit := { b with rp := b.rp + 1 }

/-! ### Pins and trace (R31, R32, R161, R162, R170) -/

/-- The level a group write leaves on a line: driven where the mask names the line, kept elsewhere (R162). -/
def Level.drive (kind : WriteKind) (named : Bool) (l : Level) : Level :=
  if named then
    match kind with
    | .set => .high
    | .clr => .low
  else l

/-- All lines of a group write change together (R162). -/
def Pins.drive (kind : WriteKind) (m : Mask) (p : Pins) : Pins where
  clk := p.clk.drive kind m.clk
  d1 := p.d1.drive kind m.d1
  d2 := p.d2.drive kind m.d2
  le := p.le.drive kind m.le

/-- All four lines at one level. -/
def Pins.all (l : Level) : Pins := { clk := l, d1 := l, d2 := l, le := l }

/-- PinWrite(kind, m): record the write, then change the named pins (R162). -/
def SeqUnit.pinWrite (kind : WriteKind) (m : Mask) (q : SeqUnit) : SeqUnit :=
  { q with trace := q.trace ++ [.write kind m], pins := q.pins.drive kind m }

/-! ### Completing a command (R99, R243) -/

/-- respond(v) and the end of a successful APPLY: RESP <- v, CDC_PHASE <- DONE, and ACK_T toggles (R243, R249). -/
def State.respond (v : Bool) (s : State) : State :=
  { s with cdc := { s.cdc with resp := v, phase := .done, ackT := !s.cdc.ackT } }

/-! ### Taking a fault, and the way out (R300, R302, R305, R340) -/

/-- The code a fault puts into ERR (R300). -/
def FaultCode.code : FaultCode → BitVec 4
  | .illegalCmd => 0x1
  | .portViolation => 0x2
  | .lifecycle => 0x3
  | .resetWhileActive => 0x4
  | .timerConfig => 0x5
  | .gpioConfig => 0x6
  | .tickOverrun => 0x7

/-- raise Fault(code): ERR takes the code if it is 0, and the raising step changes nothing else (R302). The block is
halted from then on, because every agent's step checks ERR. -/
def State.raise (f : FaultCode) (s : State) : State :=
  if s.err = 0 then { s with err := f.code } else s

/-- The stage a program begins at (R275; a script begins at its first line, R100). A track whose metadata-decode phase
failed has no command to issue (log 37). -/
def Program.firstStage : Program → Stage
  | .free => .free
  | .script _ => .script 0
  | .track rate calq (some _) => .opening (sessionBegin rate calq)
  | .track _ _ none => .finished

/-- The blocks a program's decoder will give (R272). -/
def Program.blocks : Program → List Decoded
  | .free => []
  | .script _ => []
  | .track _ _ (some st) => st.blocks
  | .track _ _ none => []

/-- How a program has ended where it begins: a track whose metadata-decode phase failed, by a decoder error (log 37). -/
def Program.firstEnd : Program → Option TrackEnd
  | .free => none
  | .script _ => none
  | .track _ _ (some _) => none
  | .track _ _ none => some .decoderError

/-- The HOST begins a program: it stands at its first stage with nothing outstanding. -/
def Producer.begin (prog : Program) (p : Producer) : Producer :=
  { p with program := prog, stage := prog.firstStage, awaiting := false, blocks := prog.blocks, trackEnd := prog.firstEnd }

/-- rst_n: every element of the block takes its reset value, whatever the block was doing (R46, R340). A command
outstanding is lost (R252), and the HOST begins its program again (R277; DESIGN CHOICE, log 8). What is no part of the
block stays: the parameters, the HOST's signals and its STATUS copy, the schedule and the counters of the free values. -/
def State.rstN (s : State) : State :=
  { State.resetWith s.cfg with
    statusSeen := s.statusSeen
    producer := s.producer.begin s.producer.program
    schedule := s.schedule
    moves := s.moves
    draws := s.draws }

end Sys2Proof.Machine
end

