-- ==== Sys2Proof/Machine/Operands.lean ====
section
/-! DEFINITION. Operand forms and what is computed from operands: the packed sample (R62, R93), the alarm period
(R94, R201), the pin set (R8, R161), the write groups of a frame (R164, R165), the physical masks (R171) and the HOST's
volume shift (R274). -/

namespace Sys2Proof.Machine

/-! ### The StereoSample (R62, R93, R173) -/

/-- The sample with these two channels, ch1 in 31:16 and ch2 in 15:0 (R62). -/
def packSample (ch1 ch2 : Channel) : Sample := ch1 ++ ch2

/-- Channel 1 of a sample (R62). -/
def chan1 (v : Sample) : Channel := v.extractLsb' 16 16

/-- Channel 2 of a sample (R62). -/
def chan2 (v : Sample) : Channel := v.extractLsb' 0 16

/-! ### The clock configuration (R94, R201) -/

/-- The alarm period: the exact quotient, rounded down (R201). -/
def alarmTicks (c : Config) (rate calq : BitVec 32) : Nat :=
  (c.timerResHz * calq.toNat) / (rate.toNat * Config.osf * 65536)

/-- The period can be programmed: neither operand is 0 and the period fits the alarm register (R201). -/
def alarmOk (c : Config) (rate calq : BitVec 32) : Bool :=
  decide (rate ≠ 0) && decide (calq ≠ 0) &&
    decide (alarmTicks c rate calq ≠ 0) && decide (alarmTicks c rate calq ≤ 2 ^ c.timerWidth - 1)

/-! ### The pin set (R8, R161, R171) -/

/-- The four pin numbers, in the order CLK, D1, D2, LE (R8). -/
def pinNumbers (c : Config) : List Nat := [c.pinClk, c.pinD1, c.pinD2, c.pinLe]

/-- The pin set is valid: pairwise distinct and every pin in VALID_OUT_PINS (R161). -/
def pinsOk (c : Config) : Bool :=
  decide (pinNumbers c).Nodup && (pinNumbers c).all (fun p => c.validOutPins.contains p)

/-- gpio_mask(m): the OR of 1 << PIN_p over the lines of m (R171). -/
def gpioMask (c : Config) (m : Mask) : Nat :=
  (if m.clk then 1 <<< c.pinClk else 0) ||| (if m.d1 then 1 <<< c.pinD1 else 0) |||
    (if m.d2 then 1 <<< c.pinD2 else 0) ||| (if m.le then 1 <<< c.pinLe else 0)

/-- The one physical write of a group write: the register of its kind and the bitmask (R171). -/
def physicalWrite (c : Config) (kind : WriteKind) (m : Mask) : Nat × Nat :=
  match kind with
  | .set => (c.gpioSetClrPort.1, gpioMask c m)
  | .clr => (c.gpioSetClrPort.2, gpioMask c m)

/-! ### The frame (R164, R165) -/

/-- The lines cleared for bit i: the data lines whose bit is 0 (R165). -/
def clrGroup (v : Sample) (i : Nat) : Mask := { d1 := !v.getLsbD (16 + i), d2 := !v.getLsbD i }

/-- The lines set for bit i: the data lines whose bit is 1, and LE for bit 14 (R165, R166). -/
def setGroup (v : Sample) (i : Nat) : Mask := { d1 := v.getLsbD (16 + i), d2 := v.getLsbD i, le := i == 14 }

/-- Write number j of the frame of a sample, the last being number 64 (R164). -/
def frameWrite (v : Sample) (j : Nat) : WriteKind × Mask :=
  if j < 64 then
    match j % 4 with
    | 0 => (.clr, clrGroup v (15 - j / 4))
    | 1 => (.set, setGroup v (15 - j / 4))
    | 2 => (.set, { clk := true })
    | _ => (.clr, { clk := true })
  else (.clr, { le := true })

/-! ### The HOST's volume shift (R274) -/

/-- The shift amount: (decoder_bit_depth - 16) - VOL; positive attenuates (R274). -/
def volShift (bitDepth : Nat) (vol : Int) : Int := ((bitDepth : Int) - 16) - vol

/-- The shifted raw sample: an arithmetic right shift by at most 31, or a left shift that wraps (R274). -/
def shiftRaw (shift : Int) (r : Raw) : Raw :=
  if shift = 0 then r
  else if 0 < shift then r.sshiftRight (min shift.toNat 31)
  else if (-shift).toNat ≤ 31 then r <<< (-shift).toNat
  else 0

/-- vshift: the shifted sample, truncated to its low 16 bits (R274). -/
def vshift (bitDepth : Nat) (vol : Int) (r : Raw) : Channel :=
  (shiftRaw (volShift bitDepth vol) r).extractLsb' 0 16

end Sys2Proof.Machine
end

