-- ==== Sys2Proof/Machine/Flags.lean ====
section
/-! DEFINITION. The STATUS output and what a HOST's read of it returns (R43), and the P port's outputs (R241). The one
condition flag of the block, ND (R24), is written by the buffer operations of Ops.lean. -/

namespace Sys2Proof.Machine

/-- The encoding of CLK_STATE in STATUS[1:0] (R43). -/
def ClkState.bits : ClkState → BitVec 2
  | .none => 0
  | .running => 1
  | .stopped => 2
  | .disabled => 3

/-- STATUS from its fields: CLK_STATE [1:0], DRV_OPEN [2], SEQ_BUSY [3], P_BUSY [4], RS_SYNC [5], ERR [11:8]; bits 7:6
and 15:12 are hardwired 0 (R43). -/
def statusOf (clk : BitVec 2) (drv busy pBusy rs : Bool) (err : BitVec 4) : StatusWord :=
  (0#4 ++ err ++ 0#2 ++ BitVec.ofBool rs ++ BitVec.ofBool pBusy ++ BitVec.ofBool busy ++ BitVec.ofBool drv ++ clk :
    BitVec 16)

/-- DRV_OPEN: 1 when DRV = OPEN (R43). -/
def State.drvOpen (s : State) : Bool := s.seq.drv == .opened

/-- P_BUSY: 1 when CDC_PHASE is not IDLE (R43). -/
def State.pBusy (s : State) : Bool := s.cdc.phase != .idle

/-- The STATUS wire: every field at its present value (R43). -/
def State.status (s : State) : StatusWord :=
  statusOf s.clk.state.bits s.drvOpen s.seq.busy s.pBusy s.cdc.rsSync.bit s.err

/-- A CLK command has been applied and is not completed, so that STATUS.CLK_STATE is not yet exact (R43). -/
def State.clkInexact (s : State) : Bool :=
  s.cdc.phase == .done && decide (8 ≤ (opcOf s.cdc.mbox).toNat) && decide ((opcOf s.cdc.mbox).toNat ≤ 11)

/-- A DRV command has been applied and is not completed, so that STATUS.DRV_OPEN is not yet exact (R43). -/
def State.drvInexact (s : State) : Bool :=
  s.cdc.phase == .done && decide (6 ≤ (opcOf s.cdc.mbox).toNat) && decide ((opcOf s.cdc.mbox).toNat ≤ 7)

/-- Whether this read shows ERR: always once a read has shown it, else as the free bit says (R43). -/
def State.errShown (s : State) : Bool := s.errSeen || (Config.freeStatus s.draws).getLsbD 8

/-- What a HOST read of STATUS returns now. SEQ_BUSY and RS_SYNC are free values, ERR is 0 or ERR, and CLK_STATE and
DRV_OPEN are free while the command that changed them is not completed (R43; log 3). -/
def State.statusRead (s : State) : StatusWord :=
  let f := Config.freeStatus s.draws
  statusOf (if s.clkInexact then f.extractLsb' 0 2 else s.clk.state.bits)
    (if s.drvInexact then f.getLsbD 2 else s.drvOpen)
    (f.getLsbD 3) s.pBusy (f.getLsbD 5)
    (if s.errShown then s.err else 0)

/-- The HOST reads STATUS: no effect on the block (R43, R278). The read leaves its value with the HOST, and a read that
returned ERR makes every later one return it. -/
def State.readStatus (s : State) : State :=
  { s with statusSeen := s.statusRead, errSeen := s.errSeen || (s.errShown && s.err != 0), draws := s.draws + 1 }

/-- cmd_ready (R241). -/
def State.cmdReady (s : State) : Bool := s.cdc.phase == .idle

/-- resp_valid (R241). -/
def State.respValid (s : State) : Bool := s.cdc.phase == .done

end Sys2Proof.Machine
end

