-- ==== Sys2Proof/Machine/Buffer.lean ====
section
/-! DEFINITION. The buffer commands BUF_RESET, BUF_PUT, BUF_POLL and BUF_GET (R120 to R128). -/

namespace Sys2Proof.Machine

/-- BUF_RESET (R121): the buffer's initial state; RESET_WHILE_ACTIVE while the clock is RUNNING (R122). -/
def execBufReset (s : State) : Outcome :=
  if s.clk.state = .running then .next (s.raise .resetWhileActive)
  else .next ({ s with buf := s.buf.reset s.cfg.bufN }.respond false)

/-- BUF_PUT (R123): append the sample to the write slot, or discard it when the slot is full (R124). -/
def execBufPut (ch1 ch2 : Channel) (s : State) : Outcome :=
  .next ({ s with buf := s.buf.put s.cfg.bufN (packSample ch1 ch2) }.respond false)

/-- BUF_POLL (R125): respond with ND; when it was 1, clear it and empty the write slot. -/
def execBufPoll (s : State) : Outcome :=
  .next ({ s with buf := s.buf.poll }.respond s.buf.nd)

/-- BUF_GET (R126), as the tick engine issues it on the internal path (R98): swap if the read slot is exhausted, take
the entry at (RS, RP), step RP. A never-written entry gives a free value (R25). It makes no handshake: it is no P-port
command. An entry that does not exist stops the model; R129 rules such a state out (log 9). -/
def execBufGet (s : State) : Outcome :=
  let b := s.buf.swapIfExhausted
  if b.rp < s.cfg.bufN then
    match memRead b.slots (slotAddr s.cfg.bufN b.rs b.rp) with
    | some v => .next { s with buf := b.advance, getData := v }
    | none => .next { s with buf := b.advance, getData := Config.freeSample s.draws, draws := s.draws + 1 }
  else .fault .slotOutOfRange

end Sys2Proof.Machine
end

