-- ==== Sys2Proof/Machine/Dac.lean ====
section
/-! DEFINITION. The DAC sequencer: DRV_OPEN, DAC_WRITE, DRV_RELEASE, and the SEQ step (R160 to R173). -/

namespace Sys2Proof.Machine

/-- DRV_OPEN (R161): LIFECYCLE unless the driver is closed, then GPIO_CONFIG unless the pin set is valid; drive all
four lines to 0 and own them. -/
def execDrvOpen (s : State) : Outcome :=
  if s.seq.drv ≠ .closed then .next (s.raise .lifecycle)
  else if pinsOk s.cfg = false then .next (s.raise .gpioConfig)
  else .next ({ s with seq := { s.seq with pins := Pins.all .low, trace := s.seq.trace ++ [TraceEntry.opened],
                                           drv := .opened } }.respond false)

/-- DAC_WRITE (R163), as the tick engine issues it on the internal path (R98): latch the sample and start a frame. No
pin changes here, and no handshake: it is no P-port command. -/
def execDacWrite (ch1 ch2 : Channel) (s : State) : Outcome :=
  .next { s with seq := { s.seq with data := packSample ch1 ch2, step := 0, busy := true } }

/-- DRV_RELEASE (R170): LIFECYCLE unless the driver is open and no timer exists; release all four lines. -/
def execDrvRelease (s : State) : Outcome :=
  if s.seq.drv ≠ .opened ∨ s.clk.state ≠ .none then .next (s.raise .lifecycle)
  else .next ({ s with seq := { s.seq with pins := Pins.all .z, trace := s.seq.trace ++ [TraceEntry.released],
                                           drv := .closed } }.respond false)

/-- The SEQ step (R164): write number SEQ_STEP of the frame; the last one ends the frame. -/
def seqStep (s : State) : State :=
  let w := frameWrite s.seq.data s.seq.step
  if s.seq.step < 64 then { s with seq := { s.seq.pinWrite w.1 w.2 with step := s.seq.step + 1 } }
  else { s with seq := { s.seq.pinWrite w.1 w.2 with busy := false } }

end Sys2Proof.Machine
end

