-- ==== Sys2Proof/Machine/Clock.lean ====
section
/-! DEFINITION. The sample clock: CLK_START, CLK_STOP, CLK_DISABLE, CLK_DELETE, the TICK and the timer's count
(R200 to R211). -/

namespace Sys2Proof.Machine

/-- CLK_START (R201): LIFECYCLE unless no timer exists and the driver is open, then TIMER_CONFIG unless the period can
be programmed; one atomic construction of a running timer. -/
def execClkStart (rate calq : BitVec 32) (s : State) : Outcome :=
  if s.clk.state ≠ .none ∨ s.seq.drv ≠ .opened then .next (s.raise .lifecycle)
  else if alarmOk s.cfg rate calq = false then .next (s.raise .timerConfig)
  else .next ({ s with clk := { state := .running, alarm := alarmTicks s.cfg rate calq, tcount := 0 } }.respond false)

/-- CLK_STOP (R207): RUNNING to STOPPED; a frame in flight runs on. -/
def execClkStop (s : State) : Outcome :=
  if s.clk.state ≠ .running then .next (s.raise .lifecycle)
  else .next ({ s with clk := { s.clk with state := .stopped } }.respond false)

/-- CLK_DISABLE (R208): STOPPED to DISABLED. -/
def execClkDisable (s : State) : Outcome :=
  if s.clk.state ≠ .stopped then .next (s.raise .lifecycle)
  else .next ({ s with clk := { s.clk with state := .disabled } }.respond false)

/-- CLK_DELETE (R209): DISABLED to NONE. While a frame is in flight the command holds: nothing changes and it stays
pending. The lifecycle check comes before the hold (log 10). -/
def execClkDelete (s : State) : Outcome :=
  if s.clk.state ≠ .disabled then .next (s.raise .lifecycle)
  else if s.seq.busy then .next s
  else .next ({ s with clk := { state := .none, alarm := 0, tcount := 0 } }.respond false)

/-- A TICK is admitted: the timer runs, the block is not halted, and either no frame is in flight or an overrun is a
fault (R205, R206). -/
def tickEnabled (s : State) : Bool :=
  s.clk.state == .running && s.err == 0 && (!s.seq.busy || s.cfg.overrun == .fault)

/-- TICK (R205): BUF_GET and then DAC_WRITE of its sample, as one step; TICK_OVERRUN while a frame is in flight. -/
def tick (s : State) : Outcome :=
  if s.seq.busy then .next (s.raise .tickOverrun)
  else
    match execBufGet s with
    | .next t => execDacWrite (chan1 t.getData) (chan2 t.getData) t
    | .fault f => .fault f
    | .refused r => .refused r

/-- The next timer count reaches ALARM (R203). -/
def alarmDue (s : State) : Bool := s.clk.tcount + 1 == s.clk.alarm

/-- The timer counts while RUNNING and not halted. The count that raises the alarm needs an admitted TICK: R206
excludes the others (log 11). -/
def countEnabled (s : State) : Bool :=
  s.clk.state == .running && s.err == 0 && (!alarmDue s || tickEnabled s)

/-- One timer count (R203): TCOUNT reloads to 0 and the alarm is raised, or TCOUNT steps. An overrun changes ERR
only (R302). -/
def count (s : State) : Outcome :=
  if alarmDue s then
    if s.seq.busy then tick s else tick { s with clk := { s.clk with tcount := 0 } }
  else .next { s with clk := { s.clk with tcount := s.clk.tcount + 1 } }

end Sys2Proof.Machine
end

