-- ==== Sys2Proof/Machine/Dispatch.lean ====
section
/-! DEFINITION. The dispatch: one arm for each command, calling its meaning. -/

namespace Sys2Proof.Machine

def exec (i : Instr) (s : State) : Host.Outcome State Fault Refusal :=
  match i with
  | .bufReset => Sys2Proof.Machine.execBufReset s
  | .bufPut ch1 ch2 => Sys2Proof.Machine.execBufPut ch1 ch2 s
  | .bufPoll => Sys2Proof.Machine.execBufPoll s
  | .bufGet => Sys2Proof.Machine.execBufGet s
  | .dacWrite ch1 ch2 => Sys2Proof.Machine.execDacWrite ch1 ch2 s
  | .drvOpen => Sys2Proof.Machine.execDrvOpen s
  | .drvRelease => Sys2Proof.Machine.execDrvRelease s
  | .clkStart rate calq => Sys2Proof.Machine.execClkStart rate calq s
  | .clkStop => Sys2Proof.Machine.execClkStop s
  | .clkDisable => Sys2Proof.Machine.execClkDisable s
  | .clkDelete => Sys2Proof.Machine.execClkDelete s

end Sys2Proof.Machine
end

