-- ==== Sys2Proof/Machine/Cdc.lean ====
section
/-! DEFINITION. The clock-domain crossing: ISSUE, APPLY, COMPLETE and SYNC (R242 to R252). -/

namespace Sys2Proof.Machine

/-- ISSUE (R242): the word goes into the mailbox undecoded, and REQ_T toggles. -/
def issue (w : CmdWord) (s : State) : State :=
  { s with cdc := { s.cdc with mbox := w, phase := .pending, reqT := !s.cdc.reqT } }

/-- The pending command is held: a CLK_DELETE, legal but for the frame in flight (R209, R243). -/
def held (s : State) : Bool :=
  match decode s.cdc.mbox with
  | .ok i => i == .clkDelete && s.clk.state == .disabled && s.seq.busy
  | .error _ => false

/-- APPLY is enabled (R243, R251). -/
def applyEnabled (s : State) : Bool := s.cdc.phase == .pending && s.err == 0 && !held s

/-- What APPLY does with the word in the mailbox, in the order of R97: no command, ILLEGAL_CMD (R95, R96); a C-only
command, PORT_VIOLATION (R98); else the command's own rule with its own checks. -/
def applyWord (w : CmdWord) (s : State) : Outcome :=
  match decode w with
  | .error _ => .next (s.raise .illegalCmd)
  | .ok i => if cOnly i then .next (s.raise .portViolation) else exec i s

/-- APPLY (R243): perform the pending command whole. -/
def apply (s : State) : Outcome := applyWord s.cdc.mbox s

/-- COMPLETE (R244): the HOST receives RESP and the mailbox is free again. -/
def complete (s : State) : State :=
  { s with cdc := { s.cdc with phase := .idle }, producer := { s.producer with lastResp := s.cdc.resp } }

/-- SYNC (R250): RS_SYNC <- RS. -/
def sync (s : State) : State := { s with cdc := { s.cdc with rsSync := s.buf.rs } }

/-- No timer exists and no frame is in flight: with the mailbox IDLE this is the idle condition (R315). -/
def quiet (s : State) : Bool := s.clk.state == .none && !s.seq.busy

/-- The SYNC that R250 lets be taken before a COMPLETE, taken where that COMPLETE enters the idle condition. R315 gives
SYNC no step there and R250 gives it one wherever RS_SYNC lags, so the copy no longer lags when the condition begins
(log 38). -/
def catchUp (s : State) : State := if quiet s then sync s else s

end Sys2Proof.Machine
end

