-- ==== Sys2Proof/Machine/Producer.lean ====
section
/-! DEFINITION. The HOST agent: scripts (R100), play_track and feed_loop (R273, R275, R276), the external signals
(R271), and how it drives the P port (R242, R244, R245). -/

namespace Sys2Proof.Machine

/-- One of the values written so far, newest first, chosen by a free value; the latest is always among them (R271). -/
def pickWritten {α : Type} (latest : α) (log : List α) (k : Nat) : α :=
  log.getD (Config.freePick k % log.length) latest

/-- A read of CMD (R271). -/
def readCmd (p : Producer) (k : Nat) : Command := pickWritten .idle p.cmdLog k

/-- A read of VOL (R271). -/
def readVol (p : Producer) (k : Nat) : Int := pickWritten 0 p.volLog k

/-- A write of CMD, by the control surface or by feed_loop when it consumes a command (R271, R273). -/
def Producer.writeCmd (c : Command) (p : Producer) : Producer := { p with cmdLog := c :: p.cmdLog }

/-- A write of VOL by the control surface (R271). -/
def Producer.writeVol (v : Int) (p : Producer) : Producer := { p with volLog := v :: p.volLog }

/-- decoder_bit_depth of the track that runs; the value is not used elsewhere (R272). -/
def Producer.bitDepth (p : Producer) : Nat :=
  match p.program with
  | .track _ _ (some st) => st.bitDepth
  | .track _ _ none => 16
  | .script _ => 16
  | .free => 16

/-- The lines of the script that runs. -/
def Producer.lines (p : Producer) : List ScriptLine :=
  match p.program with
  | .script lines => lines
  | .track _ _ _ => []
  | .free => []

/-- The line of a running script. -/
def Producer.line (p : Producer) (pc : Nat) : Option ScriptLine := p.lines[pc]?

/-- The line a label names in a running script (R100). -/
def Producer.target (p : Producer) (l : Nat) : Nat := labelIndex p.lines l

/-- The command the program issues next, if its next step is a command. A put's two volume shifts read VOL once each,
the draws k and k + 1 (R271, R273, R274). -/
def Producer.nextCommand (p : Producer) (k : Nat) : Option Instr :=
  match p.stage with
  | .free => none
  | .script pc => (p.line pc).bind (fun line => line.op.bind ScriptOp.asm)
  | .opening [] => none
  | .opening (i :: _) => some i
  | .top => none
  | .poll _ => some .bufPoll
  | .drain [] => none
  | .drain (r :: _) =>
    some (.bufPut (vshift p.bitDepth (readVol p k) r.1) (vshift p.bitDepth (readVol p (k + 1)) r.2))
  | .closing [] => none
  | .closing (i :: _) => some i
  | .finished => none

/-- How many free values the next command's operands draw. -/
def Producer.commandDraws (p : Producer) : Nat :=
  match p.stage with
  | .drain _ => 2
  | _ => 0

/-- Where the program stands once its outstanding command is answered; a poll that returned 0 is issued again (R104,
R273). -/
def Stage.answered (resp : Bool) : Stage → Stage
  | .free => .free
  | .script pc => .script (pc + 1)
  | .opening rest => .opening rest.tail
  | .top => .top
  | .poll block => if resp then .drain block else .poll block
  | .drain block => .drain block.tail
  | .closing rest => .closing rest.tail
  | .finished => .finished

/-- The track ends: SESSION_END follows, whichever way feed_loop ended (R275). -/
def Producer.close (e : TrackEnd) (p : Producer) : Producer :=
  { p with stage := .closing sessionEnd, trackEnd := some e }

/-- The top of feed_loop: a stop or a play is consumed and ends the loop; else one block is decoded (R273). A stream
with no block left gives an empty block (log 12). -/
def Producer.atTop (c : Command) (p : Producer) : Producer :=
  match c with
  | .stop => (p.writeCmd .idle).close .stopped
  | .play => (p.writeCmd .idle).close .restart
  | .idle =>
    match p.blocks with
    | [] => { p with stage := .poll [] }
    | .error :: rest => { p with blocks := rest }.close .decoderError
    | .block b :: rest => { p with blocks := rest, stage := .poll b }

/-- The end of a drain: the track is complete after its final block, else the loop turns (R273). -/
def Producer.afterDrain (p : Producer) : Producer :=
  if p.blocks.isEmpty then p.close .complete else { p with stage := .top }

/-- A step of the program that is no command: a script's jump, a label on a line of its own, or a point of play_track and feed_loop. None where the
program's next step is a command or where it has no next step. -/
def Producer.silent (p : Producer) (k : Nat) : Option Producer :=
  match p.stage with
  | .free => none
  | .script pc =>
    match (p.line pc).map ScriptLine.op with
    | some none => some { p with stage := .script (pc + 1) }
    | some (some (.jz l)) => some { p with stage := .script (if p.lastResp then pc + 1 else p.target l) }
    | some (some (.jmp l)) => some { p with stage := .script (p.target l) }
    | _ => none
  | .opening [] => some { p with stage := .top }
  | .opening (_ :: _) => none
  | .top => some (p.atTop (readCmd p k))
  | .poll _ => none
  | .drain [] => some p.afterDrain
  | .drain (_ :: _) => none
  | .closing [] => some { p with stage := .finished }
  | .closing (_ :: _) => none
  | .finished => none

/-- The HOST has a program step to take: its outstanding command is answered, its next command finds the mailbox free,
or its next step is no command (R242, R244, R245). -/
def hostEnabled (s : State) : Bool :=
  if s.producer.awaiting then s.cdc.phase == .done
  else if (s.producer.nextCommand s.draws).isSome then s.cdc.phase == .idle
  else (s.producer.silent s.draws).isSome

/-- COMPLETE by a program: the response is taken and the program goes on (R244; RS_SYNC as in `catchUp`, log 38). -/
def hostComplete (s : State) : State :=
  let t := complete (catchUp s)
  { t with producer := { t.producer with awaiting := false, stage := t.producer.stage.answered t.producer.lastResp } }

/-- ISSUE by a program: the command's word (R100, R242), which is outstanding from then on. -/
def hostIssue (i : Instr) (s : State) : State :=
  let t := issue (encode i) s
  { t with producer := { t.producer with awaiting := true }, draws := t.draws + t.producer.commandDraws }

/-- One step of the HOST's program. -/
def hostStep (s : State) : State :=
  if s.producer.awaiting then hostComplete s
  else
    match s.producer.nextCommand s.draws with
    | some i => hostIssue i s
    | none =>
      match s.producer.silent s.draws with
      | some p => { s with producer := p, draws := s.draws + 1 }
      | none => s

/-- The HOST runs no program: its command words come from outside. -/
def hostFree (s : State) : Bool := s.producer.stage == .free

/-- The HOST runs no program, or the one it ran has no next command: a track that has ended, a script with no operation
left but labels. -/
def Producer.done (p : Producer) : Bool :=
  match p.stage with
  | .free => true
  | .finished => true
  | .script pc => (p.lines.drop pc).all (fun line => line.op.isNone)
  | _ => false

/-- The HOST may begin a program: it runs none or has finished one, and no command is outstanding (R245). -/
def startEnabled (s : State) : Bool := s.producer.done && s.cdc.phase == .idle

/-- The HOST begins a program. A track whose stream has not two channels is refused (R279), and so is a script with an
operand out of range or an undefined label (R100). -/
def hostStart (prog : Program) (s : State) : Outcome :=
  match prog with
  | .free => .next { s with producer := s.producer.begin .free }
  | .script lines =>
    if scriptWf lines then .next { s with producer := s.producer.begin (.script lines) }
    else .refused .illFormedScript
  | .track rate calq st =>
    if st.all Stream.wf then .next { s with producer := s.producer.begin (.track rate calq st) }
    else .refused .channelCountNotTwo

end Sys2Proof.Machine
end

