-- ==== Sys2Proof/Machine/Agents.lean ====
section
/-! DEFINITION. The agents' moves: when each is enabled, what it does, and which comes next (R11). -/

namespace Sys2Proof.Machine

/-- The move's step is enabled in this state (R11; each case's rule is cited at its operation). rst_n, STATUS reads and
the control surface's writes are enabled in every state (R340, R43, R271). A SYNC may be taken at any time (R250); it is
a step where the copy lags RS, and elsewhere it would change nothing and is none. The copy lags neither after rst_n nor in
the idle condition (`CdcInv`), so there only the HOST has a step (R313, R315, R341; log 38). -/
def enabled (m : Move) (s : State) : Bool :=
  match m with
  | .issue _ => s.cdc.phase == .idle && hostFree s
  | .complete => s.cdc.phase == .done && hostFree s
  | .readStatus => true
  | .rstN => true
  | .start _ => startEnabled s
  | .host => hostEnabled s
  | .writeCmd _ => true
  | .writeVol _ => true
  | .apply => applyEnabled s
  | .count => countEnabled s
  | .tick => tickEnabled s
  | .seq => s.seq.busy && s.err == 0
  | .sync => s.cdc.rsSync != s.buf.rs

/-- What the move does where it is enabled. -/
def act (m : Move) (s : State) : Outcome :=
  match m with
  | .issue w => .next (issue w s)
  | .complete => .next (complete (catchUp s))
  | .readStatus => .next s.readStatus
  | .rstN => .next s.rstN
  | .start prog => hostStart prog s
  | .host => .next (hostStep s)
  | .writeCmd c => .next { s with producer := s.producer.writeCmd c }
  | .writeVol v => .next { s with producer := s.producer.writeVol v }
  | .apply => apply s
  | .count => count s
  | .tick => tick s
  | .seq => .next (seqStep s)
  | .sync => .next (sync s)

/-- One move: its effect where it is enabled; a move that is not enabled holds and changes nothing (R13, R14). -/
def perform (m : Move) (s : State) : Outcome :=
  if enabled m s then act m s else .next s

/-- The move that comes next: the schedule's first, or the free schedule's where the schedule is empty (R11, R45). -/
def nextMove (s : State) : Move :=
  match s.schedule with
  | m :: _ => m
  | [] => Config.freeMove s.moves

/-- The state with its next move taken off the schedule. -/
def takeMove (s : State) : State :=
  match s.schedule with
  | _ :: rest => { s with schedule := rest }
  | [] => { s with moves := s.moves + 1 }

/-- One step of the machine: the next move, where the configuration is one the rules hold for (R344). -/
def stepMove (s : State) : Outcome :=
  if s.cfg.valid then perform (nextMove s) (takeMove s) else .refused .badConfiguration

/-- Puts a command word in the mailbox as an ISSUE leaves it, not halted, with APPLY next. -/
def placeOnPort (w : CmdWord) (s : State) : State :=
  { s with
    cdc := { s.cdc with mbox := w, phase := .pending, reqT := !s.cdc.ackT }
    err := 0
    schedule := .apply :: s.schedule }

/-- Makes a TICK the next move and admits it, in a session as CLK_START leaves it: a running timer, an open driver with
its lines at rest, no frame in flight, not halted. -/
def placeTick (s : State) : State :=
  { s with
    clk := { state := .running, alarm := max s.clk.alarm 1, tcount := 0 }
    seq := { s.seq with drv := .opened, busy := false, pins := Pins.all .low }
    err := 0
    schedule := .tick :: s.schedule }

/-- Makes the next BUF_GET return this sample: the entry it takes holds it. -/
def placeSample (v : Sample) (s : State) : State :=
  let b := s.buf.swapIfExhausted
  { s with buf := { s.buf with slots := memWrite s.buf.slots (slotAddr s.cfg.bufN b.rs b.rp) v } }

/-- Prepares the state so that its next step runs this command word (log 13). A P-port command, or a word that is none,
waits in the mailbox for the next APPLY. A C-only command runs only inside a TICK: for BUF_GET the next move is an
admitted TICK, for DAC_WRITE one whose BUF_GET takes the word's own sample. -/
def placeWord (w : CmdWord) (s : State) : State :=
  match decode w with
  | .ok .bufGet => placeTick s
  | .ok (.dacWrite ch1 ch2) => placeTick (placeSample (packSample ch1 ch2) s)
  | .ok _ => placeOnPort w s
  | .error _ => placeOnPort w s

end Sys2Proof.Machine
end

