-- ==== Sys2Proof/Machine/Step.lean ====
section
/-! DEFINITION. One step of the machine, and where a command word is put for the next step to run it. -/

namespace Sys2Proof.Machine

/-- One step: the next move of one agent (R11). -/
def step (s : State) : Host.Outcome State Fault Refusal := stepMove s

/-- The state whose next step runs the command word w, a number of nbits bits (log 13). -/
def State.withFetchWord (s : State) (nbits w : Nat) : State := placeWord (BitVec.ofNat 68 (w % 2 ^ nbits)) s

end Sys2Proof.Machine
end

