-- ==== Sys2Proof/Safety.lean ====
section
/-! DEFINITION. The terms of the claims: the invariants of the machine, runs and fairness (R359), the end of a run
(R357), the timing premise (R350), and the observer of the two DAC chips (R174). -/

namespace Sys2Proof.Machine

/-! ### Invariants -/

/-- The slot memory is in canonical form and lists only entries that exist (R61). -/
abbrev MemInv (s : State) : Prop :=
  Memory.wf s.buf.slots = true ∧ (s.buf.slots.all (fun e => decide (e.1 < 2 * s.cfg.bufN))) = true

/-- The buffer's invariants (I2) and (I3) (R129). (I1) holds by definition. -/
abbrev BufInv (s : State) : Prop :=
  s.buf.fl0 ≤ s.cfg.bufN ∧ s.buf.fl1 ≤ s.cfg.bufN ∧
    s.buf.rp ≤ s.cfg.bufN ∧ s.buf.rp ≤ max (s.buf.fl s.buf.rs) 1

/-- The order of the lifecycles: a timer exists only while the driver is open, and a frame is emitted only while both
are there (R160, R170, R209); SEQ_STEP stays in [0, 64] (R29). -/
abbrev LifeInv (s : State) : Prop :=
  (s.clk.state ≠ .none → s.seq.drv = .opened) ∧ (s.seq.busy = true → s.clk.state ≠ .none) ∧ s.seq.step ≤ 64

/-- The timer: ALARM is 0 exactly where no timer exists and fits TIMER_WIDTH bits, and TCOUNT stays below it (R34,
R35, R201, R203, R209). -/
abbrev TimerInv (s : State) : Prop :=
  (s.clk.state = .none → s.clk.alarm = 0 ∧ s.clk.tcount = 0) ∧
    (s.clk.state ≠ .none → s.clk.tcount < s.clk.alarm ∧ s.clk.alarm ≤ 2 ^ s.cfg.timerWidth - 1)

/-- The crossing: PENDING exactly while REQ_T and ACK_T differ (R249), and in the idle condition RS_SYNC does not lag RS,
so that SYNC has no step there (R315; log 38). -/
abbrev CdcInv (s : State) : Prop :=
  (s.cdc.phase = .pending ↔ s.cdc.reqT ≠ s.cdc.ackT) ∧
    (s.clk.state = .none → s.seq.busy = false → s.cdc.phase = .idle → s.cdc.rsSync = s.buf.rs)

/-- The HOST's side of the handshake: a program holds from its ISSUE to its COMPLETE, and at no other time is a command
of a program outstanding (R245); and each signal has a value to read (R271). -/
abbrev HostInv (s : State) : Prop :=
  (s.producer.awaiting = true → s.producer.stage ≠ .free ∧ s.cdc.phase ≠ .idle) ∧
    (s.producer.awaiting = false → s.producer.stage ≠ .free → s.cdc.phase = .idle) ∧
    s.producer.cmdLog ≠ [] ∧ s.producer.volLog ≠ []

/-- ERR holds 0 or an assigned code (R300), and no read has shown a fault that did not happen (R43). -/
abbrev ErrInv (s : State) : Prop := s.err.toNat ≤ 7 ∧ (s.errSeen = true → s.err ≠ 0)

/-- The level of a bit on a data line. -/
def levelOf (b : Bool) : Level := if b then .high else .low

/-- A data line during a frame at step j, for the channel whose bit i is `bit i`. After a set write it carries the
current bit until the next clear write (R168); between the two writes of a bit it is already low if the new bit is 0
(R167). -/
abbrev LineInv (bit : Nat → Bool) (j : Nat) (l : Level) : Prop :=
  (2 ≤ j → j % 4 ≠ 1 → l = levelOf (bit (15 - (j - 1) / 4))) ∧ (j % 4 = 1 → bit (15 - j / 4) = false → l = .low)

/-- The lines: floating while the driver is closed, driven while it is open; between frames CLK and LE are low; within a
frame CLK is high only between the two writes of a pulse, LE from write 5 to write 64, and the data lines carry the
bits (R31, R166 to R168). -/
abbrev PinInv (s : State) : Prop :=
  (s.seq.drv = .closed → s.seq.pins = Pins.all .z) ∧
    (s.seq.drv = .opened → s.seq.pins.d1 ≠ .z ∧ s.seq.pins.d2 ≠ .z) ∧
    (s.seq.drv = .opened → s.seq.busy = false → s.seq.pins.clk = .low ∧ s.seq.pins.le = .low) ∧
    (s.seq.drv = .opened → s.seq.busy = true →
      s.seq.pins.clk = levelOf (decide (s.seq.step % 4 = 3)) ∧
      s.seq.pins.le = levelOf (decide (6 ≤ s.seq.step)) ∧
      LineInv (fun i => s.seq.data.getLsbD (16 + i)) s.seq.step s.seq.pins.d1 ∧
      LineInv (fun i => s.seq.data.getLsbD i) s.seq.step s.seq.pins.d2)

/-- The invariant of the whole machine. -/
abbrev Inv (s : State) : Prop :=
  MemInv s ∧ BufInv s ∧ LifeInv s ∧ TimerInv s ∧ CdcInv s ∧ HostInv s ∧ ErrInv s ∧ PinInv s

/-! ### Runs and fairness -/

/-- These moves one after the other; a stop ends it. -/
def runMoves : List Move → State → Outcome
  | [], s => .next s
  | m :: ms, s =>
    match perform m s with
    | .next t => runMoves ms t
    | .fault f => .fault f
    | .refused r => .refused r

/-- These commands' own rules one after the other; a stop ends it. -/
def runCmds : List Instr → State → Outcome
  | [], s => .next s
  | i :: is, s =>
    match exec i s with
    | .next t => runCmds is t
    | .fault f => .fault f
    | .refused r => .refused r

/-- An endless run: these moves, one after the other, each with a next state (R11: any interleaving is one). -/
def IsRun (μ : Nat → Move) (σ : Nat → State) : Prop := ∀ n, perform (μ n) (σ n) = .next (σ (n + 1))

/-- Weak fairness for a move: where its step stays enabled it is eventually taken (R359). -/
def WeaklyFair (m : Move) (μ : Nat → Move) (σ : Nat → State) : Prop :=
  ∀ n, (∀ k, n ≤ k → enabled m (σ k) = true) → ∃ k, n ≤ k ∧ μ k = m

/-! ### The end of a run, and the timing premise -/

/-- A move that gives this HOST a next command: an offered word, the start of a program, or rst_n, after which a HOST with
a program begins it again (R277; log 8). -/
def Move.bringsCommand (p : Producer) : Move → Bool
  | .issue _ => true
  | .start _ => true
  | .rstN => p.program != .free
  | .complete => false
  | .readStatus => false
  | .host => false
  | .writeCmd _ => false
  | .writeVol _ => false
  | .apply => false
  | .count => false
  | .tick => false
  | .seq => false
  | .sync => false

/-- The HOST's program has no next command (R357): the one it runs is done, and no scheduled move brings another. -/
def hostDone (s : State) : Bool :=
  s.producer.done && !s.producer.awaiting && s.schedule.all (fun m => !m.bringsCommand s.producer)

/-- The run has ended (R357). -/
def finalState (s : State) : Bool :=
  hostDone s && s.cdc.phase == .idle && s.clk.state == .none && !s.seq.busy && s.seq.drv == .closed && s.err == 0

/-- The tick-period premise: ALARM / TIMER_RES_HZ seconds exceed SEQ_FRAME_TIME nanoseconds (R350). -/
def tickPeriodPremise (c : Config) (alarm : Nat) : Bool := decide (c.seqFrameTime * c.timerResHz < alarm * 1000000000)

/-! ### The DAC observer (R174; no part of the block) -/

/-- The shift and output registers of the two DAC chips. -/
structure Dacs where
  sr1 : Channel
  out1 : Channel
  sr2 : Channel
  out2 : Channel
  deriving DecidableEq, Repr, Inhabited

/-- SRx <- (SRx[14:0], D): most-significant bit first (R174). -/
def shiftIn (sr : Channel) (l : Level) : Channel := (sr.extractLsb' 0 15 ++ BitVec.ofBool (l == .high) : BitVec 16)

/-- What the chips do when the lines go from p to q: shift on the rising CLK, commit on the falling LE (R174). -/
def Dacs.see (p q : Pins) (d : Dacs) : Dacs :=
  let e := if p.clk = .low ∧ q.clk = .high then
      { d with sr1 := shiftIn d.sr1 q.d1, sr2 := shiftIn d.sr2 q.d2 } else d
  if p.le = .high ∧ q.le = .low then { e with out1 := e.sr1, out2 := e.sr2 } else e

/-- The lines after a trace entry (R161, R162, R170). -/
def TraceEntry.apply (e : TraceEntry) (p : Pins) : Pins :=
  match e with
  | .opened => Pins.all .low
  | .released => Pins.all .z
  | .write kind m => p.drive kind m

/-- The chips watch a trace. -/
def observe : List TraceEntry → Pins → Dacs → Dacs
  | [], _, d => d
  | e :: es, p, d => observe es (e.apply p) (d.see p (e.apply p))

/-- The 65 writes of the frame of a sample, in order (R164). -/
def frameTrace (v : Sample) : List TraceEntry :=
  (List.range 65).map (fun j => .write (frameWrite v j).1 (frameWrite v j).2)

/-- The lines after the first j writes of a sample's frame, from the lines p (R164). -/
def pinsAfter (v : Sample) (j : Nat) (p : Pins) : Pins :=
  ((frameTrace v).take j).foldl (fun q e => e.apply q) p

/-! ### The two ends of a command, and comparing runs -/

/-- The state of a command that completed: RESP <- v, CDC_PHASE <- DONE, ACK_T toggled (R243). -/
def answered (v : Bool) (s : State) : State :=
  { s with cdc := { s.cdc with resp := v, phase := .done, ackT := !s.cdc.ackT } }

/-- The state of a step that raised a fault: ERR takes the code if it is 0, and nothing else changes (R302). -/
def faulted (code : BitVec 4) (s : State) : State := { s with err := if s.err = 0 then code else s.err }

/-- The outcome with its next state changed. -/
def Outcome.mapNext (f : State → State) : Outcome → Outcome
  | .next s => .next (f s)
  | .fault e => .fault e
  | .refused r => .refused r

/-- The state with another RS_SYNC. -/
def State.withRsSync (x : Slot) (s : State) : State := { s with cdc := { s.cdc with rsSync := x } }

end Sys2Proof.Machine
end

