-- ==== Sys2Proof/Certificates/Slice0/Obligations.lean ====
section
/-! DEFINITION. The statements for the provers. Where a statement gives a whole next state, every part of the state it
does not name is unchanged: the frame is part of the equation. -/

open Sys2Proof Sys2Proof.Machine

/-! ### Encoding -/

/-- Decoding the word of any command gives the command back, every operand at every value (R90 to R94). -/
def Obligations.DecodeOfEncode : Prop := ∀ i : Instr, decode (encode i) = .ok i

/-- A word that decodes to a command is the word the assembler emits for it (R90 to R95). -/
def Obligations.EncodeOfDecode : Prop := ∀ (w : CmdWord) (i : Instr), decode w = .ok i → encode i = w

/-- The worked command words (R105), written out from the spec, are the words of their commands and decode to them. -/
def Obligations.WorkedCommandWords : Prop :=
  (∀ p ∈ [(Instr.bufReset, (0x10000000000000000 : CmdWord)),
      (.bufPut 0x8001 0x0001, 0x20000000080010001),
      (.bufPut (BitVec.ofInt 16 (-1)) 2, 0x200000000FFFF0002),
      (.bufPoll, 0x30000000000000000),
      (.drvOpen, 0x60000000000000000),
      (.drvRelease, 0x70000000000000000),
      (.clkStart 44100 0x00010000, 0x8000100000000AC44),
      (.clkStop, 0x90000000000000000),
      (.clkDisable, 0xA0000000000000000),
      (.clkDelete, 0xB0000000000000000)],
    encode p.1 = p.2 ∧ decode p.2 = .ok p.1)

/-- The FS operand is PAYLOAD[31:0] as given, its halves the two channels, each in [-32768, 32767] (R93). -/
def Obligations.SampleOperandAsGiven : Prop :=
  (∀ w : CmdWord, opcOf w = 2 → w.extractLsb' 32 32 = 0 →
    ∃ c d : Channel, decode w = .ok (.bufPut c d) ∧ c = w.extractLsb' 16 16 ∧ d = w.extractLsb' 0 16 ∧
      packSample c d = w.extractLsb' 0 32) ∧
  (∀ w : CmdWord, opcOf w = 5 → w.extractLsb' 32 32 = 0 →
    ∃ c d : Channel, decode w = .ok (.dacWrite c d) ∧ c = w.extractLsb' 16 16 ∧ d = w.extractLsb' 0 16 ∧
      packSample c d = w.extractLsb' 0 32) ∧
  (∀ c : Channel, -32768 ≤ c.toInt ∧ c.toInt ≤ 32767)

/-- A reserved opcode faults with ILLEGAL_CMD, whatever the payload (R96). -/
def Obligations.ReservedOpcodeFaults : Prop :=
  ∀ s : State, s.cdc.phase = .pending → s.err = 0 → (opcOf s.cdc.mbox = 0 ∨ 12 ≤ (opcOf s.cdc.mbox).toNat) →
    perform .apply s = .next { s with err := 1 }

/-- A reserved payload bit faults with ILLEGAL_CMD and performs no part of the command; FC has none (R95). -/
def Obligations.ReservedPayloadFaults : Prop :=
  (∀ s : State, s.cdc.phase = .pending → s.err = 0 →
    ((opcOf s.cdc.mbox ∈ [1, 3, 4, 6, 7, 9, 10, 11] ∧ payloadOf s.cdc.mbox ≠ 0) ∨
      (opcOf s.cdc.mbox ∈ [2, 5] ∧ (payloadOf s.cdc.mbox).extractLsb' 32 32 ≠ 0)) →
    perform .apply s = .next { s with err := 1 }) ∧
  (∀ w : CmdWord, opcOf w = 8 → ∃ rate calq, decode w = .ok (.clkStart rate calq))

/-- BUF_GET and DAC_WRITE met in the mailbox fault with PORT_VIOLATION and perform nothing (R98). -/
def Obligations.ConsumerCommandOnPortFaults : Prop :=
  ∀ (s : State) (i : Instr), s.cdc.phase = .pending → s.err = 0 → s.cdc.mbox = encode i →
    (i = .bufGet ∨ ∃ c d, i = .dacWrite c d) → perform .apply s = .next { s with err := 2 }

/-- The decode order of APPLY (R97): reserved opcode, reserved payload bits, port, then the command's own rule; every
word takes exactly one of these ways and none is refused. -/
def Obligations.ApplyDecodesInOrder : Prop :=
  ∀ s : State, s.cdc.phase = .pending → s.err = 0 → held s = false →
    let opc := (opcOf s.cdc.mbox).toNat
    let p := payloadOf s.cdc.mbox
    if opc = 0 ∨ 12 ≤ opc then perform .apply s = .next { s with err := 1 }
    else if (opc = 2 ∨ opc = 5) ∧ p.extractLsb' 32 32 ≠ 0 ∨ (opc ≠ 2 ∧ opc ≠ 5 ∧ opc ≠ 8) ∧ p ≠ 0 then
      perform .apply s = .next { s with err := 1 }
    else if opc = 4 ∨ opc = 5 then perform .apply s = .next { s with err := 2 }
    else ∃ i t, decode s.cdc.mbox = .ok i ∧ (opcode i).toNat = opc ∧ perform .apply s = .next t ∧ exec i s = .next t

/-! ### The buffer -/

/-- BUF_RESET outside RUNNING: the buffer's initial state, slot contents kept, RESP 0 (R121). -/
def Obligations.BufResetRestoresInitialBuffer : Prop :=
  ∀ s : State, s.clk.state ≠ .running →
    exec .bufReset s = .next (answered false
      { s with buf := { rs := .s0, rp := 0, fl0 := s.cfg.bufN, fl1 := s.cfg.bufN, nd := true, slots := s.buf.slots } })

/-- BUF_RESET is legal only while CLK_STATE is not RUNNING; in RUNNING it changes nothing but ERR, to
RESET_WHILE_ACTIVE (R122). -/
def Obligations.BufResetWhileRunningFaults : Prop :=
  ∀ s : State,
    (s.clk.state = .running → exec .bufReset s = .next (faulted 4 s)) ∧
    (s.clk.state ≠ .running → ∃ t, exec .bufReset s = .next t ∧ t.err = s.err ∧ t.cdc.phase = .done)

/-- BUF_PUT into a write slot with room: the entry (WS, FL[WS]) takes the sample, FL[WS] steps by one, every other entry
and everything else stays (R123). -/
def Obligations.BufPutStoresAtWritePosition : Prop :=
  ∀ (s : State) (c d : Channel), s.buf.fl s.buf.rs.other < s.cfg.bufN →
    ∃ m : Memory,
      exec (.bufPut c d) s = .next (answered false
        { s with buf :=
          { s.buf with
            slots := m
            fl0 := if s.buf.rs = .s1 then s.buf.fl0 + 1 else s.buf.fl0
            fl1 := if s.buf.rs = .s0 then s.buf.fl1 + 1 else s.buf.fl1 } }) ∧
      ∀ a, memRead m a =
        if a = slotAddr s.cfg.bufN s.buf.rs.other (s.buf.fl s.buf.rs.other) then some (packSample c d)
        else memRead s.buf.slots a

/-- BUF_PUT at capacity: nothing changes but the handshake, and RESP is 0 like that of a stored put (R124). -/
def Obligations.BufPutAtCapacityDiscards : Prop :=
  ∀ (s : State) (c d : Channel), s.cfg.bufN ≤ s.buf.fl s.buf.rs.other →
    exec (.bufPut c d) s = .next (answered false s)

/-- BUF_POLL: with ND set it responds 1, clears ND and empties the write slot; with ND clear it responds 0 and changes
nothing but the handshake (R125). -/
def Obligations.BufPollConsumesEdge : Prop :=
  ∀ s : State,
    (s.buf.nd = true → exec .bufPoll s = .next (answered true
      { s with buf :=
        { s.buf with
          nd := false
          fl0 := if s.buf.rs = .s1 then 0 else s.buf.fl0
          fl1 := if s.buf.rs = .s0 then 0 else s.buf.fl1 } })) ∧
    (s.buf.nd = false → exec .bufPoll s = .next (answered false s))

/-- BUF_GET: where the read slot is exhausted RS flips, RP restarts and ND is set; the entry at (RS, RP) is returned, or
a free value where nothing has written it; RP steps by one. Nothing else changes (R126). -/
def Obligations.BufGetTakesNextSample : Prop :=
  ∀ s : State,
    let swap := decide (s.buf.fl s.buf.rs ≤ s.buf.rp)
    let rs := if swap then s.buf.rs.other else s.buf.rs
    let rp := if swap then 0 else s.buf.rp
    let entry := memRead s.buf.slots (slotAddr s.cfg.bufN rs rp)
    rp < s.cfg.bufN →
    exec .bufGet s = .next
      { s with
        buf := { s.buf with rs := rs, rp := rp + 1, nd := s.buf.nd || swap }
        getData := entry.getD (Config.freeSample s.draws)
        draws := if entry.isSome then s.draws else s.draws + 1 }

/-- BUF_GET stops the model, by slotOutOfRange, exactly where the entry it would take does not exist; no such state meets
the buffer's invariant with a capacity of at least 1 (R61, R126). -/
def Obligations.BufGetStopsOnlyOutOfRange : Prop :=
  (∀ s : State,
    exec .bufGet s = .fault .slotOutOfRange ↔
      s.cfg.bufN ≤ (if s.buf.fl s.buf.rs ≤ s.buf.rp then 0 else s.buf.rp)) ∧
  (∀ s : State, 1 ≤ s.cfg.bufN → BufInv s → exec .bufGet s ≠ .fault .slotOutOfRange)

/-- BUF_GET always produces a sample, so every TICK that is admitted outside a frame starts a DAC frame of it (R128). -/
def Obligations.EveryTickStartsFrame : Prop :=
  ∀ s : State, 1 ≤ s.cfg.bufN → BufInv s →
    (∃ t, exec .bufGet s = .next t) ∧
    (enabled .tick s = true → s.seq.busy = false →
      ∃ t, perform .tick s = .next t ∧ t.seq.busy = true ∧ t.seq.step = 0 ∧ t.seq.data = t.getData)

/-- Underrun: a BUF_GET that swaps into an empty slot returns that slot's entry 0, stale or a free value, sets RP to 1
above FL = 0, reports nothing, and the next BUF_GET swaps again (R127). -/
def Obligations.UnderrunReplaysStaleEntry : Prop :=
  ∀ s : State, 1 ≤ s.cfg.bufN → s.buf.fl s.buf.rs ≤ s.buf.rp → s.buf.fl s.buf.rs.other = 0 →
    ∃ t u, exec .bufGet s = .next t ∧
      t.getData = (memRead s.buf.slots (slotAddr s.cfg.bufN s.buf.rs.other 0)).getD (Config.freeSample s.draws) ∧
      t.buf = { s.buf with rs := s.buf.rs.other, rp := 1, nd := true } ∧ t.buf.fl t.buf.rs = 0 ∧
      t.err = s.err ∧ t.cdc = s.cdc ∧
      exec .bufGet t = .next u ∧ u.buf = { s.buf with rp := 1, nd := true }

/-- The buffer's invariants (R129): they hold after reset and every step keeps (I2) and (I3); WS differs from RS (I1);
and no command but BUF_GET and BUF_RESET writes RS or RP (I4). -/
def Obligations.BufferInvariantsHold : Prop :=
  (∀ c : Config, BufInv (State.resetWith c)) ∧
  (∀ s t : State, BufInv s → step s = .next t → BufInv t) ∧
  (∀ s : State, s.buf.ws = s.buf.rs.other ∧ s.buf.ws.num = 1 - s.buf.rs.num) ∧
  (∀ (i : Instr) (s t : State), i ≠ .bufGet → i ≠ .bufReset → exec i s = .next t →
    t.buf.rs = s.buf.rs ∧ t.buf.rp = s.buf.rp)

/-- The needs-data edge: ND is set by a swap and by BUF_RESET, cleared by BUF_POLL, and written by no other command; no
move but APPLY, a TICK, a timer count and rst_n writes it (R24, R130). -/
def Obligations.NeedsDataEdgeWriters : Prop :=
  (∀ (i : Instr) (s t : State), exec i s = .next t →
    t.buf.nd =
      match i with
      | .bufReset => s.buf.nd || decide (s.clk.state ≠ .running)
      | .bufGet => s.buf.nd || decide (s.buf.fl s.buf.rs ≤ s.buf.rp)
      | .bufPoll => false
      | _ => s.buf.nd) ∧
  (∀ (m : Move) (s t : State), perform m s = .next t → t.buf.nd ≠ s.buf.nd →
    m = .apply ∨ m = .tick ∨ m = .count ∨ m = .rstN)

/-- The round trip in the form 90_conflicts.md C4 gives it: after BUF_RESET, a BUF_POLL and any puts, BUF_N gets return
the stale content of slot 0, and the gets after them return the samples put, in order, as many as fit the slot. -/
def Obligations.RoundTripKeepsOrder : Prop :=
  ∀ (s : State) (vs : List (Channel × Channel)), s.clk.state ≠ .running →
    let fill := [Instr.bufReset, .bufPoll] ++ vs.map (fun v => Instr.bufPut v.1 v.2)
    (∀ j v, j < s.cfg.bufN → memRead s.buf.slots (slotAddr s.cfg.bufN .s0 j) = some v →
      ∃ t, runCmds (fill ++ List.replicate (j + 1) .bufGet) s = .next t ∧ t.getData = v) ∧
    (∀ k v, k < s.cfg.bufN → vs[k]? = some v →
      ∃ t, runCmds (fill ++ List.replicate (s.cfg.bufN + (k + 1)) .bufGet) s = .next t ∧
        t.getData = packSample v.1 v.2)

/-- No move but rst_n changes an entry of the slot being read: BUF_PUT writes slot WS only (R68). -/
def Obligations.ReadSlotEntriesUntouched : Prop :=
  ∀ (m : Move) (s t : State) (k : Nat), m ≠ .rstN → perform m s = .next t → k < s.cfg.bufN →
    memRead t.buf.slots (slotAddr s.cfg.bufN s.buf.rs k) = memRead s.buf.slots (slotAddr s.cfg.bufN s.buf.rs k)

/-! ### The DAC sequencer -/

/-- DRV_OPEN (R161): LIFECYCLE where the driver is open, whatever the pins; GPIO_CONFIG where the pins are not pairwise
distinct valid outputs; else all four lines at 0, (OPEN) on the trace, and the driver open. -/
def Obligations.DrvOpenTakesPins : Prop :=
  ∀ s : State,
    let c := s.cfg
    let valid := (c.pinClk ≠ c.pinD1 ∧ c.pinClk ≠ c.pinD2 ∧ c.pinClk ≠ c.pinLe ∧ c.pinD1 ≠ c.pinD2 ∧
      c.pinD1 ≠ c.pinLe ∧ c.pinD2 ≠ c.pinLe) ∧
      (c.pinClk ∈ c.validOutPins ∧ c.pinD1 ∈ c.validOutPins ∧ c.pinD2 ∈ c.validOutPins ∧ c.pinLe ∈ c.validOutPins)
    (s.seq.drv = .opened → exec .drvOpen s = .next (faulted 3 s)) ∧
    (s.seq.drv = .closed → ¬ valid → exec .drvOpen s = .next (faulted 6 s)) ∧
    (s.seq.drv = .closed → valid → exec .drvOpen s = .next (answered false
      { s with seq :=
        { s.seq with
          drv := .opened
          pins := { clk := .low, d1 := .low, d2 := .low, le := .low }
          trace := s.seq.trace ++ [TraceEntry.opened] } }))

/-- DAC_WRITE latches the sample and starts a frame at write 0; no pin changes (R163). -/
def Obligations.DacWriteStartsFrame : Prop :=
  ∀ (s : State) (c d : Channel),
    exec (.dacWrite c d) s = .next
      { s with seq := { s.seq with data := packSample c d, step := 0, busy := true } }

/-- DRV_RELEASE (R170): LIFECYCLE unless the driver is open and no timer exists; else all four lines released,
(RELEASE) on the trace, and the driver closed. -/
def Obligations.DrvReleaseFloatsPins : Prop :=
  ∀ s : State,
    (s.seq.drv = .closed ∨ s.clk.state ≠ .none → exec .drvRelease s = .next (faulted 3 s)) ∧
    (s.seq.drv = .opened → s.clk.state = .none → exec .drvRelease s = .next (answered false
      { s with seq :=
        { s.seq with
          drv := .closed
          pins := { clk := .z, d1 := .z, d2 := .z, le := .z }
          trace := s.seq.trace ++ [TraceEntry.released] } }))

/-- The SEQ step (R164, R165): write j of the frame, in four phases for bit 15 - j/4, and the final clear of LE, which
ends the frame. A group write changes exactly the lines it names (R162). -/
def Obligations.SeqStepWritesGroup : Prop :=
  ∀ s : State, s.seq.busy = true → s.err = 0 →
    let j := s.seq.step
    let i := 15 - j / 4
    let b1 := s.seq.data.getLsbD (16 + i)
    let b2 := s.seq.data.getLsbD i
    let p := s.seq.pins
    (j < 64 → j % 4 = 0 → perform .seq s = .next { s with seq := { s.seq with
      step := j + 1
      trace := s.seq.trace ++ [.write .clr { d1 := !b1, d2 := !b2 }]
      pins := { p with d1 := if b1 then p.d1 else .low, d2 := if b2 then p.d2 else .low } } }) ∧
    (j < 64 → j % 4 = 1 → perform .seq s = .next { s with seq := { s.seq with
      step := j + 1
      trace := s.seq.trace ++ [.write .set { d1 := b1, d2 := b2, le := decide (i = 14) }]
      pins := { p with
        d1 := if b1 then .high else p.d1
        d2 := if b2 then .high else p.d2
        le := if i = 14 then .high else p.le } } }) ∧
    (j < 64 → j % 4 = 2 → perform .seq s = .next { s with seq := { s.seq with
      step := j + 1
      trace := s.seq.trace ++ [.write .set { clk := true }]
      pins := { p with clk := .high } } }) ∧
    (j < 64 → j % 4 = 3 → perform .seq s = .next { s with seq := { s.seq with
      step := j + 1
      trace := s.seq.trace ++ [.write .clr { clk := true }]
      pins := { p with clk := .low } } }) ∧
    (64 ≤ j → perform .seq s = .next { s with seq := { s.seq with
      busy := false
      trace := s.seq.trace ++ [.write .clr { le := true }]
      pins := { p with le := .low } } })

/-- A frame is exactly 65 writes, always in the same order: 65 SEQ steps from its start append them, end it, and leave CLK
and LE low and the data lines at bit 0; nothing outside SEQ changes (R164, R168). -/
def Obligations.FrameIsSixtyFiveWrites : Prop :=
  ∀ s : State, s.seq.busy = true → s.seq.step = 0 → s.err = 0 →
    runMoves (List.replicate 65 .seq) s = .next
      { s with seq :=
        { s.seq with
          busy := false
          step := 64
          trace := s.seq.trace ++ frameTrace s.seq.data
          pins :=
            { clk := .low
              d1 := levelOf (s.seq.data.getLsbD 16)
              d2 := levelOf (s.seq.data.getLsbD 0)
              le := .low } } }

/-- After one complete frame the two DAC chips hold the sample's channels, whatever they held before (R174). -/
def Obligations.FrameReachesBothDacs : Prop :=
  ∀ (v : Sample) (p : Pins) (d : Dacs), p.clk = .low → p.le = .low →
    (observe (frameTrace v) p d).out1 = chan1 v ∧ (observe (frameTrace v) p d).out2 = chan2 v

/-- The totals of a frame (R169): 65 writes, 32 of them to data lines and 32 to CLK; CLK rises exactly at the writes
4k + 2, sixteen times, with bit 15 - k of each channel on its line; LE rises at write 5 only and falls at write 64
only. -/
def Obligations.FramePulseTotals : Prop :=
  ∀ (v : Sample) (p : Pins), p.clk = .low → p.le = .low →
    (frameTrace v).length = 65 ∧
    (∀ j, j < 64 → (j % 4 = 0 → ∃ a b, (frameTrace v)[j]? = some (.write .clr { d1 := a, d2 := b })) ∧
      (j % 4 = 1 → ∃ a b, (frameTrace v)[j]? = some (.write .set { d1 := a, d2 := b, le := decide (j = 5) })) ∧
      (j % 4 = 2 → (frameTrace v)[j]? = some (.write .set { clk := true })) ∧
      (j % 4 = 3 → (frameTrace v)[j]? = some (.write .clr { clk := true }))) ∧
    (frameTrace v)[64]? = some (.write .clr { le := true }) ∧
    (∀ j, j < 65 → (((pinsAfter v j p).clk = .low ∧ (pinsAfter v (j + 1) p).clk = .high) ↔ j % 4 = 2)) ∧
    (∀ k, k < 16 → (pinsAfter v (4 * k + 3) p).d1 = levelOf (v.getLsbD (16 + (15 - k))) ∧
      (pinsAfter v (4 * k + 3) p).d2 = levelOf (v.getLsbD (15 - k))) ∧
    (∀ j, j < 65 → (((pinsAfter v j p).le = .low ∧ (pinsAfter v (j + 1) p).le = .high) ↔ j = 5)) ∧
    (∀ j, j < 65 → (((pinsAfter v j p).le = .high ∧ (pinsAfter v (j + 1) p).le = .low) ↔ j = 64))

/-- Between the clear and the set write of a bit, a data line whose new value is 0 is already 0, and one whose new value
is 1 still has its previous level (R167). -/
def Obligations.ResetBeforeSetOrdering : Prop :=
  ∀ (v : Sample) (p : Pins) (k : Nat), k < 16 →
    (pinsAfter v (4 * k + 1) p).d1 =
      (if v.getLsbD (16 + (15 - k)) then (pinsAfter v (4 * k) p).d1 else .low) ∧
    (pinsAfter v (4 * k + 1) p).d2 =
      (if v.getLsbD (15 - k) then (pinsAfter v (4 * k) p).d2 else .low)

/-! ### The sample clock -/

/-- CLK_START from NONE with an open driver and a period that can be programmed: the timer runs with the exact quotient,
rounded down, and TCOUNT at 0 (R201). -/
def Obligations.ClkStartProgramsAlarm : Prop :=
  ∀ (s : State) (rate calq : BitVec 32),
    let a := (s.cfg.timerResHz * calq.toNat) / (rate.toNat * 65536)
    s.clk.state = .none → s.seq.drv = .opened → rate ≠ 0 → calq ≠ 0 → a ≠ 0 → a ≤ 2 ^ s.cfg.timerWidth - 1 →
    exec (.clkStart rate calq) s = .next (answered false { s with clk := { state := .running, alarm := a, tcount := 0 } })

/-- CLK_START otherwise: LIFECYCLE first, whatever its operands, then TIMER_CONFIG; either changes ERR only
(R201, R202, R306). -/
def Obligations.ClkStartFaults : Prop :=
  ∀ (s : State) (rate calq : BitVec 32),
    let a := (s.cfg.timerResHz * calq.toNat) / (rate.toNat * 65536)
    (s.clk.state ≠ .none ∨ s.seq.drv ≠ .opened → exec (.clkStart rate calq) s = .next (faulted 3 s)) ∧
    (s.clk.state = .none → s.seq.drv = .opened →
      (rate = 0 ∨ calq = 0 ∨ a = 0 ∨ 2 ^ s.cfg.timerWidth - 1 < a) →
      exec (.clkStart rate calq) s = .next (faulted 5 s))

/-- CLK_STOP: RUNNING to STOPPED, a frame in flight untouched; elsewhere LIFECYCLE (R207). -/
def Obligations.ClkStopStopsTimer : Prop :=
  ∀ s : State,
    (s.clk.state = .running →
      exec .clkStop s = .next (answered false { s with clk := { s.clk with state := .stopped } })) ∧
    (s.clk.state ≠ .running → exec .clkStop s = .next (faulted 3 s))

/-- CLK_DISABLE: STOPPED to DISABLED; elsewhere LIFECYCLE (R208). -/
def Obligations.ClkDisableDisablesTimer : Prop :=
  ∀ s : State,
    (s.clk.state = .stopped →
      exec .clkDisable s = .next (answered false { s with clk := { s.clk with state := .disabled } })) ∧
    (s.clk.state ≠ .stopped → exec .clkDisable s = .next (faulted 3 s))

/-- CLK_DELETE: DISABLED with no frame in flight to NONE, ALARM and TCOUNT 0; elsewhere than in DISABLED LIFECYCLE
(R209). -/
def Obligations.ClkDeleteDeletesTimer : Prop :=
  ∀ s : State,
    (s.clk.state = .disabled → s.seq.busy = false →
      exec .clkDelete s = .next (answered false { s with clk := { state := .none, alarm := 0, tcount := 0 } })) ∧
    (s.clk.state ≠ .disabled → exec .clkDelete s = .next (faulted 3 s))

/-- CLK_DELETE in DISABLED holds while a frame is in flight: APPLY changes nothing, and the frame's last write lifts the
hold, after which APPLY performs it (R209). -/
def Obligations.ClkDeleteHoldsDuringFrame : Prop :=
  ∀ s : State, s.cdc.phase = .pending → s.cdc.mbox = encode .clkDelete → s.err = 0 → s.clk.state = .disabled →
    s.seq.busy = true →
    perform .apply s = .next s ∧
    (s.seq.step = 64 → ∃ t, runMoves [.seq, .apply] s = .next t ∧ t.clk.state = .none ∧ t.clk.alarm = 0 ∧
      t.cdc.phase = .done ∧ t.cdc.resp = false ∧ t.err = 0)

/-- A TICK outside a frame: one atomic step of BUF_GET and DAC_WRITE of the sample it returned; no other unit changes
(R205). -/
def Obligations.TickFeedsSequencer : Prop :=
  ∀ s u : State, s.clk.state = .running → s.err = 0 → s.seq.busy = false → exec .bufGet s = .next u →
    perform .tick s = .next { u with seq := { s.seq with data := u.getData, step := 0, busy := true } }

/-- A TICK during a frame: under EXCLUDED it is not enabled, under FAULT it raises TICK_OVERRUN (R206). -/
def Obligations.TickDuringFrameFollowsModel : Prop :=
  ∀ s : State, s.seq.busy = true →
    (s.cfg.overrun = .excluded → enabled .tick s = false ∧ perform .tick s = .next s) ∧
    (s.cfg.overrun = .fault → s.clk.state = .running → s.err = 0 → perform .tick s = .next { s with err := 7 })

/-- A timer count in RUNNING: TCOUNT steps, or reloads to 0 at ALARM and raises the alarm, whose handler is the TICK;
elsewhere the timer does not count (R203). An alarm during a frame does what a TICK does there (R206; log 11, log 21). -/
def Obligations.TimerCountReloadsAtAlarm : Prop :=
  ∀ s : State,
    (s.clk.state = .running → s.err = 0 → s.clk.tcount + 1 ≠ s.clk.alarm →
      perform .count s = .next { s with clk := { s.clk with tcount := s.clk.tcount + 1 } }) ∧
    (s.clk.state = .running → s.err = 0 → s.clk.tcount + 1 = s.clk.alarm → s.seq.busy = false →
      perform .count s = perform .tick { s with clk := { s.clk with tcount := 0 } }) ∧
    (s.clk.state = .running → s.err = 0 → s.clk.tcount + 1 = s.clk.alarm → s.seq.busy = true →
      perform .count s = perform .tick s) ∧
    (s.clk.state ≠ .running → perform .count s = .next s)

/-- Teardown: while the timer does not run, no move performs a BUF_GET or starts a frame, and while none exists no move
writes a pin, but for DRV_OPEN and DRV_RELEASE (R210). -/
def Obligations.NoTickWorkAfterStop : Prop :=
  ∀ (m : Move) (s t : State), s.clk.state ≠ .running → m ≠ .rstN → perform m s = .next t →
    t.getData = s.getData ∧ t.seq.data = s.seq.data ∧
    (t.seq.busy = true → s.seq.busy = true) ∧
    (s.clk.state = .none → LifeInv s →
      t.seq.trace = s.seq.trace ∨ t.seq.trace = s.seq.trace ++ [TraceEntry.opened] ∨
        t.seq.trace = s.seq.trace ++ [TraceEntry.released])

/-! ### The crossing -/

/-- ISSUE (R242): with the mailbox IDLE the offered word, decoded or not, is in it and pending, and REQ_T has toggled; in
any other phase ISSUE is not enabled. A HOST without a program may offer any word, one with a program the word of its
next command. -/
def Obligations.IssueFillsMailbox : Prop :=
  (∀ (s : State) (w : CmdWord),
    (s.cdc.phase = .idle → s.producer.stage = .free →
      perform (.issue w) s = .next
        { s with cdc := { s.cdc with mbox := w, phase := .pending, reqT := !s.cdc.reqT } }) ∧
    (s.cdc.phase ≠ .idle → perform (.issue w) s = .next s)) ∧
  (∀ (s : State) (i : Instr), s.producer.awaiting = false → s.producer.nextCommand s.draws = some i →
    (s.cdc.phase = .idle → ∃ d, perform .host s = .next
        { s with cdc := { s.cdc with mbox := encode i, phase := .pending, reqT := !s.cdc.reqT },
                 producer := { s.producer with awaiting := true }, draws := d }) ∧
    (s.cdc.phase ≠ .idle → perform .host s = .next s))

/-- COMPLETE (R244): in DONE the HOST receives RESP and the mailbox is IDLE; in any other phase it is not enabled. A HOST
with a program goes on to its next stage. Where no timer exists and no frame is in flight RS_SYNC has caught up with RS,
and elsewhere it is unchanged: that a COMPLETE takes that SYNC with it is the model's reading of R250 and R315 (log 38). -/
def Obligations.CompleteHandsResponse : Prop :=
  ∀ s : State,
    let copy := if s.clk.state = .none ∧ s.seq.busy = false then s.buf.rs else s.cdc.rsSync
    (s.cdc.phase = .done → s.producer.stage = .free →
      perform .complete s = .next
        { s with cdc := { s.cdc with phase := .idle, rsSync := copy },
                 producer := { s.producer with lastResp := s.cdc.resp } }) ∧
    (s.cdc.phase ≠ .done → perform .complete s = .next s) ∧
    (s.producer.awaiting = true → s.cdc.phase = .done → ∃ g, perform .host s = .next
        { s with cdc := { s.cdc with phase := .idle, rsSync := copy },
                 producer := { s.producer with lastResp := s.cdc.resp, awaiting := false, stage := g } }) ∧
    (s.producer.awaiting = true → s.cdc.phase ≠ .done → perform .host s = .next s)

/-- APPLY never stops, and does one of three things with a pending command: performs the whole of its own rule and
completes it, with the poll result, or 0 for every other command, in RESP (R99) and ACK_T toggled; faults, changing ERR
only and leaving it PENDING; or holds (R243). -/
def Obligations.ApplyWholeOrNotAtAll : Prop :=
  ∀ s : State, s.cdc.phase = .pending → s.err = 0 →
    ∃ t, perform .apply s = .next t ∧
      ((∃ i, decode s.cdc.mbox = .ok i ∧ cOnly i = false ∧ exec i s = .next t ∧
          t.cdc = { s.cdc with phase := .done, resp := decide (i = .bufPoll) && s.buf.nd, ackT := !s.cdc.ackT } ∧
          t.err = 0 ∧ t.producer = s.producer) ∨
        (t.err ≠ 0 ∧ t = { s with err := t.err }) ∨
        (t = s ∧ s.cdc.mbox = encode .clkDelete ∧ s.seq.busy = true))

/-- MBOX is written only at ISSUE, from IDLE, and by rst_n: it is stable from ISSUE until after COMPLETE (R247). -/
def Obligations.MailboxStableUntilComplete : Prop :=
  ∀ (m : Move) (s t : State), perform m s = .next t → t.cdc.mbox ≠ s.cdc.mbox →
    m = .rstN ∨ (s.cdc.phase = .idle ∧ t.cdc.phase = .pending)

/-- No rule of the block reads RS_SYNC (R250): two states that differ in it only make every move alike, the outcomes
differing in it only. But for rst_n, a move leaves it or makes it RS, and none does but SYNC, which always does, and the
HOST's two COMPLETEs, where no timer exists and no frame is in flight (log 38). -/
def Obligations.RsSyncNeverRead : Prop :=
  (∀ (m : Move) (s : State) (x y : Slot),
    Outcome.mapNext (State.withRsSync y) (perform m (s.withRsSync x)) =
      Outcome.mapNext (State.withRsSync y) (perform m s)) ∧
  (∀ (m : Move) (s t : State), m ≠ .rstN → perform m s = .next t → t.cdc.rsSync ≠ s.cdc.rsSync →
    t.cdc.rsSync = s.buf.rs ∧ (m = .sync ∨
      ((m = .complete ∨ m = .host) ∧ s.cdc.phase = .done ∧ s.clk.state = .none ∧ s.seq.busy = false))) ∧
  (∀ s : State, perform .sync s = .next (s.withRsSync s.buf.rs))

/-- While ERR is not 0 (R251): APPLY is not enabled, a STATUS read is, and a PENDING command never completes: no move but
rst_n takes the phase out of PENDING, so that the HOST can neither issue nor complete. -/
def Obligations.HaltedCommandNeverCompletes : Prop :=
  (∀ s : State, s.err ≠ 0 → enabled .apply s = false ∧ enabled .readStatus s = true) ∧
  (∀ (m : Move) (s t : State), s.err ≠ 0 → s.cdc.phase = .pending → m ≠ .rstN → perform m s = .next t →
    t.cdc.phase = .pending ∧ t.err ≠ 0 ∧ (∀ w, enabled (.issue w) t = false) ∧ enabled .complete t = false)

/-! ### Faults, reset and the whole machine -/

/-- A step that raises a fault changes ERR and nothing else (R303). -/
def Obligations.FaultChangesOnlyErr : Prop :=
  ∀ (m : Move) (s t : State), perform m s = .next t → t.err ≠ s.err →
    m = .rstN ∨ (s.err = 0 ∧ t = { s with err := t.err })

/-- ERR is sticky (R304): once it is not 0, no move but rst_n changes it, no command's own rule does, BUF_RESET's among
them, and no step that can raise a fault is enabled. R302 halts APPLY, TICK and SEQ; that the timer's count is halted
with them is the model's reading (log 11). -/
def Obligations.ErrIsSticky : Prop :=
  (∀ (m : Move) (s t : State), s.err ≠ 0 → m ≠ .rstN → perform m s = .next t → t.err = s.err) ∧
  (∀ (i : Instr) (s t : State), s.err ≠ 0 → exec i s = .next t → t.err = s.err) ∧
  (∀ (m : Move) (s : State), s.err ≠ 0 → enabled m s = true → m ≠ .apply ∧ m ≠ .tick ∧ m ≠ .count ∧ m ≠ .seq)

/-- A halted block: APPLY, TICK, the timer's count and SEQ change nothing, and pins, buffer and clock keep through every
move but rst_n what they held, and so does the mailbox word, but for a HOST's ISSUE into an idle mailbox (R302). That the
timer does not count while the block is halted is the model's reading (log 11). -/
def Obligations.HaltedBlockIsInert : Prop :=
  (∀ s : State, s.err ≠ 0 →
    perform .apply s = .next s ∧ perform .tick s = .next s ∧ perform .count s = .next s ∧ perform .seq s = .next s) ∧
  (∀ (m : Move) (s t : State), s.err ≠ 0 → m ≠ .rstN → perform m s = .next t →
    t.buf = s.buf ∧ t.seq = s.seq ∧ t.clk = s.clk ∧ t.cdc.ackT = s.cdc.ackT ∧ t.cdc.resp = s.cdc.resp ∧
    (t.cdc.mbox = s.cdc.mbox ∨ (s.cdc.phase = .idle ∧ t.cdc.phase = .pending)))

/-- rst_n in every state, halted or not: every element the spec gives a reset value takes it, and nothing is read as
written (R46, R340). -/
def Obligations.RstNResetsBlock : Prop :=
  ∀ s : State, ∃ t, perform .rstN s = .next t ∧
    t.buf = { rs := .s0, rp := 0, fl0 := s.cfg.bufN, fl1 := s.cfg.bufN, nd := true, slots := t.buf.slots } ∧
    (∀ a, memRead t.buf.slots a = none) ∧
    t.seq.drv = .closed ∧ t.seq.busy = false ∧ t.seq.step = 0 ∧
    t.seq.pins = { clk := .z, d1 := .z, d2 := .z, le := .z } ∧ t.seq.trace = [] ∧
    t.clk = { state := .none, alarm := 0, tcount := 0 } ∧
    t.cdc.phase = .idle ∧ t.cdc.resp = false ∧ t.cdc.reqT = false ∧ t.cdc.ackT = false ∧ t.cdc.rsSync = .s0 ∧
    t.err = 0 ∧ t.cfg = s.cfg

/-- The state after power-on, and the idle condition. After power-on, for any parameters: the elements of R46 at their values, no entry read as written, and no
agent but the HOST has an enabled step, SYNC among them (R313, R341; log 38); the HOST can issue any word. In the idle
condition of every state that meets the invariant of the crossing, no agent but the HOST has a step, and no move of
another agent changes anything (R315; log 38). The parameters of State.reset are the model's choice (log 1). -/
def Obligations.PowerOnState : Prop :=
  (∀ c : Config,
    let s := State.resetWith c
    s.buf.rs = .s0 ∧ s.buf.rp = 0 ∧ s.buf.fl0 = c.bufN ∧ s.buf.fl1 = c.bufN ∧ s.buf.nd = true ∧ s.seq.drv = .closed ∧
    s.seq.busy = false ∧ s.seq.step = 0 ∧ s.seq.pins = { clk := .z, d1 := .z, d2 := .z, le := .z } ∧
    s.seq.trace = [] ∧ s.clk.state = .none ∧ s.clk.alarm = 0 ∧ s.clk.tcount = 0 ∧ s.cdc.phase = .idle ∧
    s.cdc.resp = false ∧ s.cdc.reqT = false ∧ s.cdc.ackT = false ∧ s.cdc.rsSync = .s0 ∧ s.err = 0 ∧
    (∀ a, memRead s.buf.slots a = none) ∧
    (∀ m ∈ [Move.apply, .count, .tick, .seq, .sync], enabled m s = false) ∧
    (∀ w, enabled (.issue w) s = true)) ∧
  (∀ s : State, CdcInv s → s.clk.state = .none → s.seq.busy = false → s.cdc.phase = .idle →
    ∀ m ∈ [Move.apply, .count, .tick, .seq, .sync], enabled m s = false ∧ perform m s = .next s) ∧
  State.reset = State.resetWith Config.vectors

/-- The machine's invariant holds after power-on, for any parameters. -/
def Obligations.InvariantAtPowerOn : Prop := ∀ c : Config, Inv (State.resetWith c)

/-- Every step keeps the machine's invariant: the slot memory in canonical form, the buffer's positions in range, the
lifecycles in order, the timer below its alarm, the handshake consistent, ERR an assigned code, and the four lines at the
levels their place in the frame gives (R129, R168, R249, R300). -/
def Obligations.StepKeepsInvariant : Prop := ∀ s t : State, Inv s → step s = .next t → Inv t

/-- No step changes an elaboration parameter (R42). -/
def Obligations.ParametersNeverChange : Prop := ∀ s t : State, step s = .next t → t.cfg = s.cfg

/-- TRACE only grows, by at most one entry a move: nothing but rst_n ever removes one (R32). -/
def Obligations.TraceOnlyGrows : Prop :=
  ∀ (m : Move) (s t : State), m ≠ .rstN → perform m s = .next t →
    t.seq.trace = s.seq.trace ∨ ∃ e, t.seq.trace = s.seq.trace ++ [e]

/-- A HOST read of STATUS: the reserved bits are 0 and P_BUSY is exact; CLK_STATE is exact unless a CLK command is applied
and waits for its COMPLETE, and DRV_OPEN unless a DRV command does; ERR reads 0 or ERR, and ERR once a read has returned it; the read changes nothing of the block
(R43). -/
def Obligations.StatusReadFields : Prop :=
  ∀ s : State, ∃ w, perform .readStatus s = .next
      { s with statusSeen := w, errSeen := s.errSeen || decide (s.err ≠ 0 ∧ w.extractLsb' 8 4 = s.err),
               draws := s.draws + 1 } ∧
    w.extractLsb' 12 4 = 0 ∧ w.extractLsb' 6 2 = 0 ∧
    w.getLsbD 4 = decide (s.cdc.phase ≠ .idle) ∧
    (¬ (s.cdc.phase = .done ∧ opcOf s.cdc.mbox ∈ [8, 9, 10, 11]) → w.extractLsb' 0 2 =
      (match s.clk.state with | .none => 0 | .running => 1 | .stopped => 2 | .disabled => 3)) ∧
    (¬ (s.cdc.phase = .done ∧ opcOf s.cdc.mbox ∈ [6, 7]) → w.getLsbD 2 = decide (s.seq.drv = .opened)) ∧
    (w.extractLsb' 8 4 = 0 ∨ w.extractLsb' 8 4 = s.err) ∧
    (s.errSeen = true → w.extractLsb' 8 4 = s.err)

/-- A step runs the decoded command: with an APPLY first on the schedule, the machine not halted and a P-port command
pending, the step is the command's own meaning, on the state with that move taken off the schedule. A step whose move is
an admitted TICK outside a frame is BUF_GET's meaning and then DAC_WRITE's, on the sample it returned. -/
def Obligations.StepRunsDecodedCommand : Prop :=
  (∀ (s : State) (i : Instr) (rest : List Move), s.cfg.valid = true → s.schedule = .apply :: rest →
    s.cdc.phase = .pending → s.err = 0 → decode s.cdc.mbox = .ok i → cOnly i = false →
    step s = exec i { s with schedule := rest }) ∧
  (∀ (s t : State) (rest : List Move), s.cfg.valid = true → s.schedule = .tick :: rest → s.clk.state = .running →
    s.err = 0 → s.seq.busy = false → exec .bufGet { s with schedule := rest } = .next t →
    step s = exec (.dacWrite (chan1 t.getData) (chan2 t.getData)) t)

/-- Every frame ends: on a run that is weakly fair to SEQ, no frame is in flight, or the block has halted, at some later
state (R359). -/
def Obligations.FairRunEndsFrame : Prop :=
  ∀ (μ : Nat → Move) (σ : Nat → State), IsRun μ σ → WeaklyFair .seq μ σ → ∀ n,
    ∃ k, n ≤ k ∧ ((σ k).seq.busy = false ∨ (σ k).err ≠ 0)

/-! ### The HOST -/

/-- The volume shift (R274): the shift is bit depth - 16 - VOL; 0 passes the raw sample, a positive one divides it by a
power of two with at most 31 shifts, rounding down, a negative one multiplies modulo 2^32, by 32 or more gives 0; the
result is the low 16 bits. -/
def Obligations.VolumeShiftArithmetic : Prop :=
  ∀ (depth : Nat) (vol : Int) (r : Raw),
    let shift : Int := ((depth : Int) - 16) - vol
    ∃ y : Raw, vshift depth vol r = y.extractLsb' 0 16 ∧
      (shift = 0 → y = r) ∧
      (0 < shift → y.toInt = r.toInt / 2 ^ (min shift.toNat 31)) ∧
      (shift < 0 → -shift ≤ 31 → y.toNat = (r.toNat * 2 ^ (-shift).toNat) % 2 ^ 32) ∧
      (shift < 0 → 31 < -shift → y = 0)

/-- The HOST's wait before a block's puts, and the puts (R104, R273): it issues BUF_POLL, and once answered issues it again
after a 0 and goes on to the puts after a 1; then it issues the BUF_PUT of each pair of the block in turn, each raw sample
shifted for a level of VOL that has been written (R271, R274), and goes on to the next pair once that is answered. -/
def Obligations.FeedLoopWaitsForEdge : Prop :=
  (∀ (s : State) (block : List (Raw × Raw)), s.producer.stage = .poll block →
    (s.producer.awaiting = false → s.cdc.phase = .idle → ∃ t, perform .host s = .next t ∧
      t.cdc.mbox = encode .bufPoll ∧ t.cdc.phase = .pending ∧ t.producer.awaiting = true ∧
      t.producer.stage = .poll block) ∧
    (s.producer.awaiting = true → s.cdc.phase = .done → ∃ t, perform .host s = .next t ∧
      t.cdc.phase = .idle ∧ t.producer.awaiting = false ∧
      t.producer.stage = (if s.cdc.resp then Stage.drain block else Stage.poll block)) ∧
    (s.producer.awaiting = true → s.cdc.phase ≠ .done → perform .host s = .next s)) ∧
  (∀ (s : State) (r : Raw × Raw) (rest : List (Raw × Raw)) (rate calq : BitVec 32) (st : Stream),
    s.producer.program = .track rate calq (some st) → s.producer.stage = .drain (r :: rest) →
    (s.producer.awaiting = false → s.cdc.phase = .idle → s.producer.volLog ≠ [] →
      ∃ t, ∃ v1 ∈ s.producer.volLog, ∃ v2 ∈ s.producer.volLog, perform .host s = .next t ∧
        t.cdc.mbox = encode (.bufPut (vshift st.bitDepth v1 r.1) (vshift st.bitDepth v2 r.2)) ∧
        t.cdc.phase = .pending ∧ t.producer.awaiting = true ∧ t.producer.stage = .drain (r :: rest)) ∧
    (s.producer.awaiting = true → s.cdc.phase = .done → ∃ t, perform .host s = .next t ∧
      t.cdc.phase = .idle ∧ t.producer.awaiting = false ∧ t.producer.stage = .drain rest) ∧
    (s.producer.awaiting = true → s.cdc.phase ≠ .done → perform .host s = .next s))

/-- A stream whose channel_count is not 2 is refused wherever the HOST may begin its track. R279 says that the model refuses
it; the step at which it does is the model's choice (log 26). -/
def Obligations.StreamOfOtherChannelCountRefused : Prop :=
  ∀ (s : State) (rate calq : BitVec 32) (st : Stream), startEnabled s = true → st.channelCount ≠ 2 →
    perform (.start (.track rate calq (some st))) s = .refused .channelCountNotTwo
end

