-- ==== Sys2Proof/Laws/State.lean ====
section
/-! SUPPORT. What each named update of the state does to each field. -/

namespace Sys2Proof.Machine

variable (s : State)

/-! ### respond -/

@[simp] theorem respond_cfg (v : Bool) : (s.respond v).cfg = s.cfg := rfl
@[simp] theorem respond_buf (v : Bool) : (s.respond v).buf = s.buf := rfl
@[simp] theorem respond_seq (v : Bool) : (s.respond v).seq = s.seq := rfl
@[simp] theorem respond_clk (v : Bool) : (s.respond v).clk = s.clk := rfl
@[simp] theorem respond_cdc (v : Bool) : (s.respond v).cdc = { s.cdc with resp := v, phase := .done, ackT := !s.cdc.ackT } := rfl
@[simp] theorem respond_err (v : Bool) : (s.respond v).err = s.err := rfl
@[simp] theorem respond_getData (v : Bool) : (s.respond v).getData = s.getData := rfl
@[simp] theorem respond_errSeen (v : Bool) : (s.respond v).errSeen = s.errSeen := rfl
@[simp] theorem respond_statusSeen (v : Bool) : (s.respond v).statusSeen = s.statusSeen := rfl
@[simp] theorem respond_producer (v : Bool) : (s.respond v).producer = s.producer := rfl
@[simp] theorem respond_schedule (v : Bool) : (s.respond v).schedule = s.schedule := rfl
@[simp] theorem respond_moves (v : Bool) : (s.respond v).moves = s.moves := rfl
@[simp] theorem respond_draws (v : Bool) : (s.respond v).draws = s.draws := rfl


/-! ### raise -/

@[simp] theorem raise_cfg (f : FaultCode) : (s.raise f).cfg = s.cfg := by unfold State.raise; split <;> rfl
@[simp] theorem raise_buf (f : FaultCode) : (s.raise f).buf = s.buf := by unfold State.raise; split <;> rfl
@[simp] theorem raise_seq (f : FaultCode) : (s.raise f).seq = s.seq := by unfold State.raise; split <;> rfl
@[simp] theorem raise_clk (f : FaultCode) : (s.raise f).clk = s.clk := by unfold State.raise; split <;> rfl
@[simp] theorem raise_cdc (f : FaultCode) : (s.raise f).cdc = s.cdc := by unfold State.raise; split <;> rfl
@[simp] theorem raise_err (f : FaultCode) : (s.raise f).err = if s.err = 0 then f.code else s.err := by unfold State.raise; split <;> rfl
@[simp] theorem raise_getData (f : FaultCode) : (s.raise f).getData = s.getData := by unfold State.raise; split <;> rfl
@[simp] theorem raise_errSeen (f : FaultCode) : (s.raise f).errSeen = s.errSeen := by unfold State.raise; split <;> rfl
@[simp] theorem raise_statusSeen (f : FaultCode) : (s.raise f).statusSeen = s.statusSeen := by unfold State.raise; split <;> rfl
@[simp] theorem raise_producer (f : FaultCode) : (s.raise f).producer = s.producer := by unfold State.raise; split <;> rfl
@[simp] theorem raise_schedule (f : FaultCode) : (s.raise f).schedule = s.schedule := by unfold State.raise; split <;> rfl
@[simp] theorem raise_moves (f : FaultCode) : (s.raise f).moves = s.moves := by unfold State.raise; split <;> rfl
@[simp] theorem raise_draws (f : FaultCode) : (s.raise f).draws = s.draws := by unfold State.raise; split <;> rfl


/-! ### rstN -/

@[simp] theorem rstN_cfg : s.rstN.cfg = s.cfg := rfl
@[simp] theorem rstN_buf : s.rstN.buf = (State.resetWith s.cfg).buf := rfl
@[simp] theorem rstN_seq : s.rstN.seq = (State.resetWith s.cfg).seq := rfl
@[simp] theorem rstN_clk : s.rstN.clk = (State.resetWith s.cfg).clk := rfl
@[simp] theorem rstN_cdc : s.rstN.cdc = (State.resetWith s.cfg).cdc := rfl
@[simp] theorem rstN_err : s.rstN.err = 0 := rfl
@[simp] theorem rstN_getData : s.rstN.getData = 0 := rfl
@[simp] theorem rstN_errSeen : s.rstN.errSeen = false := rfl
@[simp] theorem rstN_statusSeen : s.rstN.statusSeen = s.statusSeen := rfl
@[simp] theorem rstN_producer : s.rstN.producer = s.producer.begin s.producer.program := rfl
@[simp] theorem rstN_schedule : s.rstN.schedule = s.schedule := rfl
@[simp] theorem rstN_moves : s.rstN.moves = s.moves := rfl
@[simp] theorem rstN_draws : s.rstN.draws = s.draws := rfl


/-! ### readStatus -/

@[simp] theorem readStatus_cfg : s.readStatus.cfg = s.cfg := rfl
@[simp] theorem readStatus_buf : s.readStatus.buf = s.buf := rfl
@[simp] theorem readStatus_seq : s.readStatus.seq = s.seq := rfl
@[simp] theorem readStatus_clk : s.readStatus.clk = s.clk := rfl
@[simp] theorem readStatus_cdc : s.readStatus.cdc = s.cdc := rfl
@[simp] theorem readStatus_err : s.readStatus.err = s.err := rfl
@[simp] theorem readStatus_getData : s.readStatus.getData = s.getData := rfl
@[simp] theorem readStatus_errSeen : s.readStatus.errSeen = (s.errSeen || (s.errShown && s.err != 0)) := rfl
@[simp] theorem readStatus_statusSeen : s.readStatus.statusSeen = s.statusRead := rfl
@[simp] theorem readStatus_producer : s.readStatus.producer = s.producer := rfl
@[simp] theorem readStatus_schedule : s.readStatus.schedule = s.schedule := rfl
@[simp] theorem readStatus_moves : s.readStatus.moves = s.moves := rfl
@[simp] theorem readStatus_draws : s.readStatus.draws = s.draws + 1 := rfl


/-! ### issue -/

@[simp] theorem issue_cfg (w : CmdWord) : (issue w s).cfg = s.cfg := rfl
@[simp] theorem issue_buf (w : CmdWord) : (issue w s).buf = s.buf := rfl
@[simp] theorem issue_seq (w : CmdWord) : (issue w s).seq = s.seq := rfl
@[simp] theorem issue_clk (w : CmdWord) : (issue w s).clk = s.clk := rfl
@[simp] theorem issue_cdc (w : CmdWord) : (issue w s).cdc = { s.cdc with mbox := w, phase := .pending, reqT := !s.cdc.reqT } := rfl
@[simp] theorem issue_err (w : CmdWord) : (issue w s).err = s.err := rfl
@[simp] theorem issue_getData (w : CmdWord) : (issue w s).getData = s.getData := rfl
@[simp] theorem issue_errSeen (w : CmdWord) : (issue w s).errSeen = s.errSeen := rfl
@[simp] theorem issue_statusSeen (w : CmdWord) : (issue w s).statusSeen = s.statusSeen := rfl
@[simp] theorem issue_producer (w : CmdWord) : (issue w s).producer = s.producer := rfl
@[simp] theorem issue_schedule (w : CmdWord) : (issue w s).schedule = s.schedule := rfl
@[simp] theorem issue_moves (w : CmdWord) : (issue w s).moves = s.moves := rfl
@[simp] theorem issue_draws (w : CmdWord) : (issue w s).draws = s.draws := rfl


/-! ### complete -/

@[simp] theorem complete_cfg : (complete s).cfg = s.cfg := rfl
@[simp] theorem complete_buf : (complete s).buf = s.buf := rfl
@[simp] theorem complete_seq : (complete s).seq = s.seq := rfl
@[simp] theorem complete_clk : (complete s).clk = s.clk := rfl
@[simp] theorem complete_cdc : (complete s).cdc = { s.cdc with phase := .idle } := rfl
@[simp] theorem complete_err : (complete s).err = s.err := rfl
@[simp] theorem complete_getData : (complete s).getData = s.getData := rfl
@[simp] theorem complete_errSeen : (complete s).errSeen = s.errSeen := rfl
@[simp] theorem complete_statusSeen : (complete s).statusSeen = s.statusSeen := rfl
@[simp] theorem complete_producer : (complete s).producer = { s.producer with lastResp := s.cdc.resp } := rfl
@[simp] theorem complete_schedule : (complete s).schedule = s.schedule := rfl
@[simp] theorem complete_moves : (complete s).moves = s.moves := rfl
@[simp] theorem complete_draws : (complete s).draws = s.draws := rfl


/-! ### sync -/

@[simp] theorem sync_cfg : (sync s).cfg = s.cfg := rfl
@[simp] theorem sync_buf : (sync s).buf = s.buf := rfl
@[simp] theorem sync_seq : (sync s).seq = s.seq := rfl
@[simp] theorem sync_clk : (sync s).clk = s.clk := rfl
@[simp] theorem sync_cdc : (sync s).cdc = { s.cdc with rsSync := s.buf.rs } := rfl
@[simp] theorem sync_err : (sync s).err = s.err := rfl
@[simp] theorem sync_getData : (sync s).getData = s.getData := rfl
@[simp] theorem sync_errSeen : (sync s).errSeen = s.errSeen := rfl
@[simp] theorem sync_statusSeen : (sync s).statusSeen = s.statusSeen := rfl
@[simp] theorem sync_producer : (sync s).producer = s.producer := rfl
@[simp] theorem sync_schedule : (sync s).schedule = s.schedule := rfl
@[simp] theorem sync_moves : (sync s).moves = s.moves := rfl
@[simp] theorem sync_draws : (sync s).draws = s.draws := rfl


/-! ### seqStep -/

@[simp] theorem seqStep_cfg : (seqStep s).cfg = s.cfg := by unfold seqStep; split <;> rfl
@[simp] theorem seqStep_buf : (seqStep s).buf = s.buf := by unfold seqStep; split <;> rfl
@[simp] theorem seqStep_clk : (seqStep s).clk = s.clk := by unfold seqStep; split <;> rfl
@[simp] theorem seqStep_cdc : (seqStep s).cdc = s.cdc := by unfold seqStep; split <;> rfl
@[simp] theorem seqStep_err : (seqStep s).err = s.err := by unfold seqStep; split <;> rfl
@[simp] theorem seqStep_getData : (seqStep s).getData = s.getData := by unfold seqStep; split <;> rfl
@[simp] theorem seqStep_errSeen : (seqStep s).errSeen = s.errSeen := by unfold seqStep; split <;> rfl
@[simp] theorem seqStep_statusSeen : (seqStep s).statusSeen = s.statusSeen := by unfold seqStep; split <;> rfl
@[simp] theorem seqStep_producer : (seqStep s).producer = s.producer := by unfold seqStep; split <;> rfl
@[simp] theorem seqStep_schedule : (seqStep s).schedule = s.schedule := by unfold seqStep; split <;> rfl
@[simp] theorem seqStep_moves : (seqStep s).moves = s.moves := by unfold seqStep; split <;> rfl
@[simp] theorem seqStep_draws : (seqStep s).draws = s.draws := by unfold seqStep; split <;> rfl


/-! ### catchUp -/

@[simp] theorem catchUp_cfg : (catchUp s).cfg = s.cfg := by unfold catchUp; split <;> rfl
@[simp] theorem catchUp_buf : (catchUp s).buf = s.buf := by unfold catchUp; split <;> rfl
@[simp] theorem catchUp_seq : (catchUp s).seq = s.seq := by unfold catchUp; split <;> rfl
@[simp] theorem catchUp_clk : (catchUp s).clk = s.clk := by unfold catchUp; split <;> rfl
@[simp] theorem catchUp_err : (catchUp s).err = s.err := by unfold catchUp; split <;> rfl
@[simp] theorem catchUp_getData : (catchUp s).getData = s.getData := by unfold catchUp; split <;> rfl
@[simp] theorem catchUp_errSeen : (catchUp s).errSeen = s.errSeen := by unfold catchUp; split <;> rfl
@[simp] theorem catchUp_statusSeen : (catchUp s).statusSeen = s.statusSeen := by unfold catchUp; split <;> rfl
@[simp] theorem catchUp_producer : (catchUp s).producer = s.producer := by unfold catchUp; split <;> rfl
@[simp] theorem catchUp_schedule : (catchUp s).schedule = s.schedule := by unfold catchUp; split <;> rfl
@[simp] theorem catchUp_moves : (catchUp s).moves = s.moves := by unfold catchUp; split <;> rfl
@[simp] theorem catchUp_draws : (catchUp s).draws = s.draws := by unfold catchUp; split <;> rfl
@[simp] theorem catchUp_cdc :
    (catchUp s).cdc = { s.cdc with rsSync := if quiet s then s.buf.rs else s.cdc.rsSync } := by
  unfold catchUp; split <;> rfl

/-- Where the copy does not lag, nothing has to catch up. -/
theorem catchUp_eq_self (h : s.cdc.rsSync = s.buf.rs) : catchUp s = s := by
  unfold catchUp; split
  · unfold sync; rw [← h]
  · rfl

/-- The idle condition but for the mailbox, in terms of the state. -/
theorem quiet_iff : quiet s = true ↔ s.clk.state = .none ∧ s.seq.busy = false := by simp [quiet]


/-! ### hostComplete -/

@[simp] theorem hostComplete_cfg : (hostComplete s).cfg = s.cfg := by simp only [hostComplete, complete_cfg, catchUp_cfg]
@[simp] theorem hostComplete_buf : (hostComplete s).buf = s.buf := by simp only [hostComplete, complete_buf, catchUp_buf]
@[simp] theorem hostComplete_seq : (hostComplete s).seq = s.seq := by simp only [hostComplete, complete_seq, catchUp_seq]
@[simp] theorem hostComplete_clk : (hostComplete s).clk = s.clk := by simp only [hostComplete, complete_clk, catchUp_clk]
@[simp] theorem hostComplete_err : (hostComplete s).err = s.err := by simp only [hostComplete, complete_err, catchUp_err]
@[simp] theorem hostComplete_getData : (hostComplete s).getData = s.getData := by simp only [hostComplete, complete_getData, catchUp_getData]
@[simp] theorem hostComplete_errSeen : (hostComplete s).errSeen = s.errSeen := by simp only [hostComplete, complete_errSeen, catchUp_errSeen]
@[simp] theorem hostComplete_statusSeen : (hostComplete s).statusSeen = s.statusSeen := by simp only [hostComplete, complete_statusSeen, catchUp_statusSeen]
@[simp] theorem hostComplete_schedule : (hostComplete s).schedule = s.schedule := by simp only [hostComplete, complete_schedule, catchUp_schedule]
@[simp] theorem hostComplete_moves : (hostComplete s).moves = s.moves := by simp only [hostComplete, complete_moves, catchUp_moves]
@[simp] theorem hostComplete_draws : (hostComplete s).draws = s.draws := by simp only [hostComplete, complete_draws, catchUp_draws]
@[simp] theorem hostComplete_cdc :
    (hostComplete s).cdc = { s.cdc with phase := .idle, rsSync := if quiet s then s.buf.rs else s.cdc.rsSync } := by
  simp only [hostComplete, complete_cdc, catchUp_cdc]
@[simp] theorem hostComplete_producer : (hostComplete s).producer =
    { s.producer with lastResp := s.cdc.resp, awaiting := false, stage := s.producer.stage.answered s.cdc.resp } := by
  simp only [hostComplete, complete_producer, catchUp_producer, catchUp_cdc]


/-! ### hostIssue -/

@[simp] theorem hostIssue_cfg (i : Instr) : (hostIssue i s).cfg = s.cfg := rfl
@[simp] theorem hostIssue_buf (i : Instr) : (hostIssue i s).buf = s.buf := rfl
@[simp] theorem hostIssue_seq (i : Instr) : (hostIssue i s).seq = s.seq := rfl
@[simp] theorem hostIssue_clk (i : Instr) : (hostIssue i s).clk = s.clk := rfl
@[simp] theorem hostIssue_cdc (i : Instr) : (hostIssue i s).cdc = { s.cdc with mbox := encode i, phase := .pending, reqT := !s.cdc.reqT } := rfl
@[simp] theorem hostIssue_err (i : Instr) : (hostIssue i s).err = s.err := rfl
@[simp] theorem hostIssue_getData (i : Instr) : (hostIssue i s).getData = s.getData := rfl
@[simp] theorem hostIssue_errSeen (i : Instr) : (hostIssue i s).errSeen = s.errSeen := rfl
@[simp] theorem hostIssue_statusSeen (i : Instr) : (hostIssue i s).statusSeen = s.statusSeen := rfl
@[simp] theorem hostIssue_producer (i : Instr) : (hostIssue i s).producer = { s.producer with awaiting := true } := rfl
@[simp] theorem hostIssue_schedule (i : Instr) : (hostIssue i s).schedule = s.schedule := rfl
@[simp] theorem hostIssue_moves (i : Instr) : (hostIssue i s).moves = s.moves := rfl
@[simp] theorem hostIssue_draws (i : Instr) : (hostIssue i s).draws = s.draws + s.producer.commandDraws := rfl


/-! ### takeMove -/

@[simp] theorem takeMove_cfg : (takeMove s).cfg = s.cfg := by unfold takeMove; cases h : s.schedule <;> simp_all
@[simp] theorem takeMove_buf : (takeMove s).buf = s.buf := by unfold takeMove; cases h : s.schedule <;> simp_all
@[simp] theorem takeMove_seq : (takeMove s).seq = s.seq := by unfold takeMove; cases h : s.schedule <;> simp_all
@[simp] theorem takeMove_clk : (takeMove s).clk = s.clk := by unfold takeMove; cases h : s.schedule <;> simp_all
@[simp] theorem takeMove_cdc : (takeMove s).cdc = s.cdc := by unfold takeMove; cases h : s.schedule <;> simp_all
@[simp] theorem takeMove_err : (takeMove s).err = s.err := by unfold takeMove; cases h : s.schedule <;> simp_all
@[simp] theorem takeMove_getData : (takeMove s).getData = s.getData := by unfold takeMove; cases h : s.schedule <;> simp_all
@[simp] theorem takeMove_errSeen : (takeMove s).errSeen = s.errSeen := by unfold takeMove; cases h : s.schedule <;> simp_all
@[simp] theorem takeMove_statusSeen : (takeMove s).statusSeen = s.statusSeen := by unfold takeMove; cases h : s.schedule <;> simp_all
@[simp] theorem takeMove_producer : (takeMove s).producer = s.producer := by unfold takeMove; cases h : s.schedule <;> simp_all
@[simp] theorem takeMove_schedule : (takeMove s).schedule = s.schedule.tail := by unfold takeMove; cases h : s.schedule <;> simp_all
@[simp] theorem takeMove_moves : (takeMove s).moves = if s.schedule = [] then s.moves + 1 else s.moves := by unfold takeMove; cases h : s.schedule <;> simp_all
@[simp] theorem takeMove_draws : (takeMove s).draws = s.draws := by unfold takeMove; cases h : s.schedule <;> simp_all


/-! ### Fields of the buffer unit -/

variable (b : BufUnit)
@[simp] theorem setFl_rs (k : Slot) (n : Nat) : (b.setFl k n).rs = b.rs := by cases k <;> rfl
@[simp] theorem setFl_rp (k : Slot) (n : Nat) : (b.setFl k n).rp = b.rp := by cases k <;> rfl
@[simp] theorem setFl_nd (k : Slot) (n : Nat) : (b.setFl k n).nd = b.nd := by cases k <;> rfl
@[simp] theorem setFl_slots (k : Slot) (n : Nat) : (b.setFl k n).slots = b.slots := by cases k <;> rfl
@[simp] theorem setFl_fl_same (k : Slot) (n : Nat) : (b.setFl k n).fl k = n := by cases k <;> rfl

theorem setFl_fl_other (k j : Slot) (n : Nat) (h : j ≠ k) : (b.setFl k n).fl j = b.fl j := by
  cases k <;> cases j <;> first | rfl | exact absurd rfl h
@[simp] theorem Slot.other_other (k : Slot) : k.other.other = k := by cases k <;> rfl
@[simp] theorem Slot.other_ne (k : Slot) : k.other ≠ k := by cases k <;> decide
@[simp] theorem Slot.ne_other (k : Slot) : k ≠ k.other := by cases k <;> decide

theorem BufUnit.ws_def : b.ws = b.rs.other := rfl
@[simp] theorem advance_rs : b.advance.rs = b.rs := rfl
@[simp] theorem advance_rp : b.advance.rp = b.rp + 1 := rfl
@[simp] theorem advance_fl0 : b.advance.fl0 = b.fl0 := rfl
@[simp] theorem advance_fl1 : b.advance.fl1 = b.fl1 := rfl
@[simp] theorem advance_nd : b.advance.nd = b.nd := rfl
@[simp] theorem advance_slots : b.advance.slots = b.slots := rfl


/-! ### The invariant reads no field of the schedule -/

/-- Taking a move off the schedule keeps every invariant. -/
theorem takeMove_inv : Inv (takeMove s) ↔ Inv s := by
  simp only [Inv, MemInv, BufInv, LifeInv, TimerInv, CdcInv, HostInv, ErrInv, PinInv, takeMove_cfg, takeMove_buf,
    takeMove_seq, takeMove_clk, takeMove_cdc, takeMove_err, takeMove_errSeen, takeMove_producer]

/-- Taking a move off the schedule does not change what is enabled. -/
theorem takeMove_enabled (m : Move) : enabled m (takeMove s) = enabled m s := by
  cases m <;> simp [enabled, applyEnabled, held, countEnabled, tickEnabled, alarmDue, hostEnabled, hostFree,
    startEnabled]

end Sys2Proof.Machine
end

