-- ==== Sys2Proof/Laws/Decode.lean ====
section
/-! SUPPORT. The fields of a command word put together from its fields, and the packing of a sample. -/

namespace Sys2Proof

/-- OPC of a word put together from its fields. -/
@[simp] theorem opcOf_append (o : BitVec 4) (p : BitVec 64) : opcOf (o ++ p : BitVec 68) = o := by
  apply BitVec.eq_of_getLsbD_eq
  intro i hi
  simp only [opcOf, BitVec.getLsbD_extractLsb', BitVec.getLsbD_append]
  simp [hi]

/-- PAYLOAD of a word put together from its fields. -/
@[simp] theorem payloadOf_append (o : BitVec 4) (p : BitVec 64) : payloadOf (o ++ p : BitVec 68) = p := by
  apply BitVec.eq_of_getLsbD_eq
  intro i hi
  simp only [payloadOf, BitVec.getLsbD_extractLsb', BitVec.getLsbD_append]
  simp [hi]

/-- A word is its OPC and its PAYLOAD (R90). -/
theorem word_eq_append (w : CmdWord) : (opcOf w ++ payloadOf w : BitVec 68) = w := by
  apply BitVec.eq_of_getLsbD_eq
  intro i hi
  simp only [opcOf, payloadOf, BitVec.getLsbD_append, BitVec.getLsbD_extractLsb']
  by_cases h : i < 64
  · simp [h]
  · have h2 : i - 64 < 4 := by omega
    have h3 : 64 + (i - 64) = i := by omega
    simp [h, h2, h3]

/-- A field of the payload, read from the whole word. -/
theorem extract_append (o : BitVec 4) (p : BitVec 64) (a n : Nat) (h : a + n ≤ 64) :
    (o ++ p : BitVec 68).extractLsb' a n = p.extractLsb' a n := by
  apply BitVec.eq_of_getLsbD_eq
  intro i hi
  have h1 : a + i < 64 := by omega
  simp only [BitVec.getLsbD_extractLsb', BitVec.getLsbD_append]
  simp [h1]

/-- The high half of a payload. -/
@[simp] theorem extract_high (a b : BitVec 32) : (a ++ b : BitVec 64).extractLsb' 32 32 = a := by
  apply BitVec.eq_of_getLsbD_eq
  intro i hi
  simp only [BitVec.getLsbD_extractLsb', BitVec.getLsbD_append]
  simp [hi]

/-- The low half of a payload. -/
@[simp] theorem extract_low (a b : BitVec 32) : (a ++ b : BitVec 64).extractLsb' 0 32 = b := by
  apply BitVec.eq_of_getLsbD_eq
  intro i hi
  simp only [BitVec.getLsbD_extractLsb', BitVec.getLsbD_append]
  simp [hi]

/-- CH1 of an FS payload. -/
@[simp] theorem extract_ch1 (a : BitVec 32) (c d : Channel) :
    (a ++ (c ++ d : BitVec 32) : BitVec 64).extractLsb' 16 16 = c := by
  apply BitVec.eq_of_getLsbD_eq
  intro i hi
  have h1 : 16 + i < 32 := by omega
  have h2 : ¬ 16 + i < 16 := by omega
  simp only [BitVec.getLsbD_extractLsb', BitVec.getLsbD_append]
  simp [h1, hi]

/-- CH2 of an FS payload. -/
@[simp] theorem extract_ch2 (a : BitVec 32) (c d : Channel) :
    (a ++ (c ++ d : BitVec 32) : BitVec 64).extractLsb' 0 16 = d := by
  apply BitVec.eq_of_getLsbD_eq
  intro i hi
  have h1 : i < 32 := by omega
  simp only [BitVec.getLsbD_extractLsb', BitVec.getLsbD_append]
  simp [h1, hi]

/-- A field of the payload is the same field of the word. -/
theorem payloadOf_extract (w : CmdWord) (a n : Nat) (h : a + n ≤ 64) :
    (payloadOf w).extractLsb' a n = w.extractLsb' a n := by
  conv_rhs => rw [← word_eq_append w]
  exact (extract_append _ _ a n h).symm

/-- A payload is its two halves. -/
theorem payload_eq_halves (p : BitVec 64) : (p.extractLsb' 32 32 ++ p.extractLsb' 0 32 : BitVec 64) = p := by
  apply BitVec.eq_of_getLsbD_eq
  intro i hi
  simp only [BitVec.getLsbD_append, BitVec.getLsbD_extractLsb']
  by_cases h : i < 32
  · simp [h]
  · have h2 : i - 32 < 32 := by omega
    have h3 : 32 + (i - 32) = i := by omega
    simp [h, h2, h3]

/-- The sample field of a word is its two channels (R93). -/
theorem sample_eq_channels (w : CmdWord) :
    (w.extractLsb' 16 16 ++ w.extractLsb' 0 16 : BitVec 32) = w.extractLsb' 0 32 := by
  apply BitVec.eq_of_getLsbD_eq
  intro i hi
  simp only [BitVec.getLsbD_append, BitVec.getLsbD_extractLsb']
  by_cases h : i < 16
  · have h2 : i < 32 := by omega
    simp [h, h2]
  · have h2 : i - 16 < 16 := by omega
    have h3 : 16 + (i - 16) = i := by omega
    simp [h, h2, h3, hi]

/-- An opcode is the number it stands for. -/
theorem opcOf_eq (w : CmdWord) (n : Nat) (hn : n < 16) (h : (opcOf w).toNat = n) : opcOf w = BitVec.ofNat 4 n := by
  apply BitVec.eq_of_toNat_eq
  rw [h, BitVec.toNat_ofNat]
  omega

/-- What a word of format F0 decodes to (R92, R95). -/
theorem decodeF0_ok (w : CmdWord) (i j : Instr) : decodeF0 w j = .ok i ↔ payloadOf w = 0 ∧ i = j := by
  unfold decodeF0
  by_cases h : payloadOf w = 0
  · rw [if_pos h]
    exact ⟨fun e => ⟨h, (Except.ok.inj e).symm⟩, fun e => by rw [e.2]⟩
  · rw [if_neg h]
    exact ⟨fun e => (nomatch e), fun e => absurd e.1 h⟩

/-- What a word of format FS decodes to (R92, R93, R95). -/
theorem decodeFS_ok (w : CmdWord) (i : Instr) (mk : Channel → Channel → Instr) :
    decodeFS w mk = .ok i ↔ w.extractLsb' 32 32 = 0 ∧ i = mk (w.extractLsb' 16 16) (w.extractLsb' 0 16) := by
  unfold decodeFS
  by_cases h : w.extractLsb' 32 32 = 0
  · rw [if_pos h]
    exact ⟨fun e => ⟨h, (Except.ok.inj e).symm⟩, fun e => by rw [e.2]⟩
  · rw [if_neg h]
    exact ⟨fun e => (nomatch e), fun e => absurd e.1 h⟩

namespace Machine

/-- Channel 1 of a packed sample. -/
@[simp] theorem chan1_pack (c d : Channel) : chan1 (packSample c d) = c := by
  apply BitVec.eq_of_getLsbD_eq
  intro i hi
  have h2 : ¬ 16 + i < 16 := by omega
  simp only [chan1, packSample, BitVec.getLsbD_extractLsb', BitVec.getLsbD_append]
  simp [hi]

/-- Channel 2 of a packed sample. -/
@[simp] theorem chan2_pack (c d : Channel) : chan2 (packSample c d) = d := by
  apply BitVec.eq_of_getLsbD_eq
  intro i hi
  simp only [chan2, packSample, BitVec.getLsbD_extractLsb', BitVec.getLsbD_append]
  simp [hi]

/-- A sample is the packing of its channels, so that a TICK hands SEQ the very sample BUF_GET returned. -/
@[simp] theorem pack_chan (v : Sample) : packSample (chan1 v) (chan2 v) = v := by
  apply BitVec.eq_of_getLsbD_eq
  intro i hi
  simp only [chan1, chan2, packSample, BitVec.getLsbD_append, BitVec.getLsbD_extractLsb']
  by_cases h : i < 16
  · simp [h]
  · have h2 : i - 16 < 16 := by omega
    have h3 : 16 + (i - 16) = i := by omega
    simp [h, h2, h3]

end Machine
end Sys2Proof
end

