-- ==== Sys2Proof/Laws/Memory.lean ====
section
/-! SUPPORT. The laws of the slot memory: what a write changes, and that it keeps the canonical form. -/

namespace Sys2Proof.Machine

@[simp] theorem memRead_nil (a : Nat) : memRead [] a = none := rfl

/-- A read after a write of the same entry gives the value written. -/
@[simp] theorem memRead_memWrite_same (m : Memory) (a : Nat) (v : Sample) : memRead (memWrite m a v) a = some v := by
  induction m with
  | nil => simp [memWrite, memRead]
  | cons e m ih =>
    obtain ⟨b, u⟩ := e
    unfold memWrite
    split
    · simp [memRead]
    · split
      · simp [memRead]
      · simp_all [memRead]

/-- A write leaves every other entry alone. -/
theorem memRead_memWrite_other (m : Memory) (a c : Nat) (v : Sample) (h : c ≠ a) :
    memRead (memWrite m a v) c = memRead m c := by
  induction m with
  | nil => simp [memWrite, memRead, h]
  | cons e m ih =>
    obtain ⟨b, u⟩ := e
    unfold memWrite
    split
    · simp [memRead, h]
    · split
      · rename_i h2
        subst h2
        simp [memRead, h]
      · simp [memRead, ih]

/-- A read after any write. -/
theorem memRead_memWrite (m : Memory) (a c : Nat) (v : Sample) :
    memRead (memWrite m a v) c = if c = a then some v else memRead m c := by
  split
  · simp_all
  · exact memRead_memWrite_other m a c v ‹_›

/-- The canonical form says that the addresses rise strictly. -/
theorem Memory.wf_iff_pairwise (m : Memory) : Memory.wf m = true ↔ m.Pairwise (fun x y => x.1 < y.1) := by
  induction m with
  | nil => simp [Memory.wf]
  | cons e m ih =>
    cases m with
    | nil => simp [Memory.wf]
    | cons f m =>
      simp only [Memory.wf, Bool.and_eq_true, decide_eq_true_eq, ih, List.pairwise_cons, List.mem_cons]
      constructor
      · rintro ⟨h, h1, h2⟩
        refine ⟨?_, h1, h2⟩
        rintro x (rfl | hx)
        · exact h
        · exact lt_trans h (h1 x hx)
      · rintro ⟨h, h1, h2⟩
        exact ⟨h f (Or.inl rfl), h1, h2⟩

/-- The entries after a write: the written one, and others that stood there before. -/
theorem mem_memWrite (m : Memory) (a : Nat) (v : Sample) (x : Nat × Sample) (h : x ∈ memWrite m a v) :
    x = (a, v) ∨ x ∈ m := by
  induction m with
  | nil => simp_all [memWrite]
  | cons e m ih =>
    obtain ⟨b, u⟩ := e
    unfold memWrite at h
    split at h
    · simpa using h
    · split at h
      · rcases List.mem_cons.mp h with h | h
        · exact .inl h
        · exact .inr (List.mem_cons_of_mem _ h)
      · rcases List.mem_cons.mp h with h | h
        · exact .inr (by simp [h])
        · exact (ih h).imp id (List.mem_cons_of_mem _)

/-- A write keeps the canonical form. -/
theorem memWrite_wf (m : Memory) (a : Nat) (v : Sample) (h : Memory.wf m = true) : Memory.wf (memWrite m a v) = true := by
  rw [Memory.wf_iff_pairwise] at *
  induction m with
  | nil => simp [memWrite]
  | cons e m ih =>
    obtain ⟨b, u⟩ := e
    obtain ⟨h1, h2⟩ := List.pairwise_cons.mp h
    unfold memWrite
    split
    · rename_i hab
      refine List.pairwise_cons.mpr ⟨fun x hx => ?_, h⟩
      rcases List.mem_cons.mp hx with rfl | hx
      · exact hab
      · exact lt_trans hab (h1 x hx)
    · split
      · rename_i hab
        subst hab
        exact List.pairwise_cons.mpr ⟨h1, h2⟩
      · refine List.pairwise_cons.mpr ⟨fun x hx => ?_, ih h2⟩
        rcases mem_memWrite m a v x hx with rfl | hx
        · simp only
          omega
        · exact h1 x hx

/-- The memory after power-on has the canonical form. -/
theorem resetWith_wf (c : Config) : Memory.wf (State.resetWith c).buf.slots = true := rfl

/-- The memory after rst_n has the canonical form. -/
theorem rstN_wf (s : State) : Memory.wf s.rstN.buf.slots = true := rfl

/-- A write below a bound keeps every address below it. -/
theorem memWrite_below (m : Memory) (a n : Nat) (v : Sample) (ha : a < n)
    (h : (m.all (fun e => decide (e.1 < n))) = true) :
    ((memWrite m a v).all (fun e => decide (e.1 < n))) = true := by
  rw [List.all_eq_true] at *
  intro x hx
  rcases mem_memWrite m a v x hx with rfl | hx
  · simpa using ha
  · exact h x hx

/-- Entries of one slot lie at different addresses from those of the other (R61, R77). -/
theorem slotAddr_other_ne (n j k : Nat) (s : Slot) (hj : j < n) (hk : k < n) :
    slotAddr n s.other j ≠ slotAddr n s k := by
  cases s <;> simp only [slotAddr, Slot.other, Slot.num] <;> omega

/-- Entries of one slot at different offsets lie at different addresses (R61). -/
theorem slotAddr_inj (n j k : Nat) (s : Slot) : slotAddr n s j = slotAddr n s k ↔ j = k := by
  simp [slotAddr]

/-- An entry that exists lies below 2*BUF_N (R61). -/
theorem slotAddr_lt (n k : Nat) (s : Slot) (hk : k < n) : slotAddr n s k < 2 * n := by
  cases s <;> simp only [slotAddr, Slot.num] <;> omega

end Sys2Proof.Machine
end

