-- ==== Sys2Proof/Laws/Ops.lean ====
section
/-! SUPPORT. One lemma for each shared operation: everything it can do. -/

namespace Sys2Proof.Machine

/-! ### The model's operations are those of the spec -/

/-- `respond` is the end of a successful APPLY. -/
theorem respond_eq_answered (v : Bool) (s : State) : s.respond v = answered v s := rfl

/-- `raise` changes ERR only, and only where it is 0 (R302). -/
theorem raise_eq_faulted (f : FaultCode) (s : State) : s.raise f = faulted f.code s := by
  unfold State.raise faulted
  split <;> simp_all

/-- No fault code is 0 (R300). -/
theorem FaultCode.code_ne_zero (f : FaultCode) : f.code ≠ 0 := by cases f <;> decide

/-- Every fault code is assigned (R300). -/
theorem FaultCode.code_le (f : FaultCode) : f.code.toNat ≤ 7 := by cases f <;> decide

/-! ### The buffer unit -/

/-- A put either stores at (WS, FL[WS]) and counts, or changes nothing (R123, R124). -/
theorem put_cases (n : Nat) (v : Sample) (b : BufUnit) :
    (b.fl b.ws < n ∧ b.put n v =
      { b with slots := memWrite b.slots (slotAddr n b.ws (b.fl b.ws)) v }.setFl b.ws (b.fl b.ws + 1)) ∨
    (n ≤ b.fl b.ws ∧ b.put n v = b) := by
  unfold BufUnit.put
  split
  · exact .inl ⟨‹_›, rfl⟩
  · exact .inr ⟨by omega, rfl⟩

/-- A put leaves RS alone (R123). -/
@[simp] theorem put_rs (n : Nat) (v : Sample) (b : BufUnit) : (b.put n v).rs = b.rs := by
  rcases put_cases n v b with ⟨_, h⟩ | ⟨_, h⟩ <;> simp [h]

/-- A put leaves RP alone (R123). -/
@[simp] theorem put_rp (n : Nat) (v : Sample) (b : BufUnit) : (b.put n v).rp = b.rp := by
  rcases put_cases n v b with ⟨_, h⟩ | ⟨_, h⟩ <;> simp [h]

/-- A put leaves ND alone (R123). -/
@[simp] theorem put_nd (n : Nat) (v : Sample) (b : BufUnit) : (b.put n v).nd = b.nd := by
  rcases put_cases n v b with ⟨_, h⟩ | ⟨_, h⟩ <;> simp [h]

/-- A poll that returns 1 clears ND and empties the write slot; one that returns 0 changes nothing (R125). -/
theorem poll_cases (b : BufUnit) :
    (b.nd = true ∧ b.poll = { b with nd := false }.setFl b.ws 0) ∨ (b.nd = false ∧ b.poll = b) := by
  unfold BufUnit.poll
  cases h : b.nd
  · exact .inr ⟨rfl, rfl⟩
  · exact .inl ⟨rfl, rfl⟩

/-- A poll leaves RS alone (R125). -/
@[simp] theorem poll_rs (b : BufUnit) : b.poll.rs = b.rs := by
  rcases poll_cases b with ⟨_, h⟩ | ⟨_, h⟩ <;> simp [h]

/-- A poll leaves RP alone (R125). -/
@[simp] theorem poll_rp (b : BufUnit) : b.poll.rp = b.rp := by
  rcases poll_cases b with ⟨_, h⟩ | ⟨_, h⟩ <;> simp [h]

/-- A poll leaves the slots alone (R125). -/
@[simp] theorem poll_slots (b : BufUnit) : b.poll.slots = b.slots := by
  rcases poll_cases b with ⟨_, h⟩ | ⟨_, h⟩ <;> simp [h]

/-- After a poll ND is 0 (R125). -/
@[simp] theorem poll_nd (b : BufUnit) : b.poll.nd = false := by
  rcases poll_cases b with ⟨_, h⟩ | ⟨hn, h⟩
  · simp [h]
  · rw [h, hn]

/-- The swap is taken exactly where the read slot is exhausted (R126). -/
theorem swap_cases (b : BufUnit) :
    (b.fl b.rs ≤ b.rp ∧ b.swapIfExhausted = { b with rs := b.rs.other, rp := 0, nd := true }) ∨
    (b.rp < b.fl b.rs ∧ b.swapIfExhausted = b) := by
  unfold BufUnit.swapIfExhausted BufUnit.exhausted
  by_cases h : b.fl b.rs ≤ b.rp
  · exact .inl ⟨h, by simp [h]⟩
  · exact .inr ⟨by omega, by simp [h]⟩

/-- The swap leaves the slots alone (R126). -/
@[simp] theorem swap_slots (b : BufUnit) : b.swapIfExhausted.slots = b.slots := by
  rcases swap_cases b with ⟨_, h⟩ | ⟨_, h⟩ <;> rw [h]

/-- The swap leaves FL alone (R126). -/
theorem swap_fl (b : BufUnit) (k : Slot) : b.swapIfExhausted.fl k = b.fl k := by
  rcases swap_cases b with ⟨_, h⟩ | ⟨_, h⟩
  · rw [h]; cases k <;> rfl
  · rw [h]

/-! ### BUF_GET and TICK -/

/-- BUF_GET's next state: the buffer swapped if exhausted and advanced, the entry's value or a free one handed on. -/
theorem execBufGet_next (s t : State) (h : execBufGet s = .next t) :
    s.buf.swapIfExhausted.rp < s.cfg.bufN ∧
    ∃ v d, t = { s with buf := s.buf.swapIfExhausted.advance, getData := v, draws := d } ∧
      ((memRead s.buf.slots (slotAddr s.cfg.bufN s.buf.swapIfExhausted.rs s.buf.swapIfExhausted.rp) = some v ∧ d = s.draws) ∨
       (memRead s.buf.slots (slotAddr s.cfg.bufN s.buf.swapIfExhausted.rs s.buf.swapIfExhausted.rp) = none ∧
          v = Config.freeSample s.draws ∧ d = s.draws + 1)) := by
  simp only [execBufGet] at h
  split at h
  · rename_i hlt
    refine ⟨hlt, ?_⟩
    split at h
    · rename_i v hv
      cases h
      exact ⟨v, s.draws, rfl, .inl ⟨by simpa using hv, rfl⟩⟩
    · rename_i hv
      cases h
      exact ⟨_, _, rfl, .inr ⟨by simpa using hv, rfl, rfl⟩⟩
  · cases h

/-- BUF_GET has a next state wherever the entry it takes exists (R126). -/
theorem execBufGet_exists (s : State) (h : s.buf.swapIfExhausted.rp < s.cfg.bufN) : ∃ t, execBufGet s = .next t := by
  simp only [execBufGet, h, if_true]
  split <;> exact ⟨_, rfl⟩

/-- A TICK's next state: the overrun fault, or BUF_GET's state with a frame of its sample started (R205). -/
theorem tick_next (s t : State) (h : tick s = .next t) :
    (s.seq.busy = true ∧ t = s.raise .tickOverrun) ∨
    (s.seq.busy = false ∧ ∃ u, execBufGet s = .next u ∧
      t = { u with seq := { u.seq with data := u.getData, step := 0, busy := true } }) := by
  unfold tick at h
  split at h
  · cases h
    exact .inl ⟨‹_›, rfl⟩
  · refine .inr ⟨by simp_all, ?_⟩
    split at h
    · rename_i u hu
      simp only [execDacWrite, pack_chan] at h
      cases h
      exact ⟨u, hu, rfl⟩
    · cases h
    · cases h

/-- A timer count's next state: one more count, or the alarm's TICK with TCOUNT reloaded (R203). -/
theorem count_next (s t : State) (h : count s = .next t) :
    (alarmDue s = false ∧ t = { s with clk := { s.clk with tcount := s.clk.tcount + 1 } }) ∨
    (alarmDue s = true ∧ s.seq.busy = true ∧ t = s.raise .tickOverrun) ∨
    (alarmDue s = true ∧ s.seq.busy = false ∧ tick { s with clk := { s.clk with tcount := 0 } } = .next t) := by
  unfold count at h
  split at h
  · split at h
    · rename_i hd hb
      rcases tick_next s t h with ⟨_, ht⟩ | ⟨hb2, _⟩
      · exact .inr (.inl ⟨hd, hb, ht⟩)
      · simp [hb] at hb2
    · rename_i hd hb
      exact .inr (.inr ⟨hd, by simpa using hb, h⟩)
  · cases h
    exact .inl ⟨by simp_all, rfl⟩

/-! ### The commands of the P port -/

/-- A P-port command's rule gives a next state, and that is one of three: it completed, its response in RESP and its
handshake done, having touched only its own units; it raised a fault, which changed ERR only (R303); or it is a
CLK_DELETE that holds (R209). -/
theorem exec_port (i : Instr) (s : State) (hp : cOnly i = false) :
    (∃ v b q c, exec i s = .next (answered v { s with buf := b, seq := q, clk := c })) ∨
    (∃ f : FaultCode, exec i s = .next (s.raise f)) ∨
    (i = .clkDelete ∧ s.seq.busy = true ∧ exec i s = .next s) := by
  cases i with
  | bufReset =>
    simp only [exec, execBufReset]
    split
    · exact .inr (.inl ⟨_, rfl⟩)
    · exact .inl ⟨false, _, s.seq, s.clk, rfl⟩
  | bufPut c d => exact .inl ⟨false, _, s.seq, s.clk, rfl⟩
  | bufPoll => exact .inl ⟨_, _, s.seq, s.clk, rfl⟩
  | bufGet => cases hp
  | dacWrite c d => cases hp
  | drvOpen =>
    simp only [exec, execDrvOpen]
    split
    · exact .inr (.inl ⟨_, rfl⟩)
    · split
      · exact .inr (.inl ⟨_, rfl⟩)
      · exact .inl ⟨false, s.buf, _, s.clk, rfl⟩
  | drvRelease =>
    simp only [exec, execDrvRelease]
    split
    · exact .inr (.inl ⟨_, rfl⟩)
    · exact .inl ⟨false, s.buf, _, s.clk, rfl⟩
  | clkStart r q =>
    simp only [exec, execClkStart]
    split
    · exact .inr (.inl ⟨_, rfl⟩)
    · split
      · exact .inr (.inl ⟨_, rfl⟩)
      · exact .inl ⟨false, s.buf, s.seq, _, rfl⟩
  | clkStop =>
    simp only [exec, execClkStop]
    split
    · exact .inr (.inl ⟨_, rfl⟩)
    · exact .inl ⟨false, s.buf, s.seq, _, rfl⟩
  | clkDisable =>
    simp only [exec, execClkDisable]
    split
    · exact .inr (.inl ⟨_, rfl⟩)
    · exact .inl ⟨false, s.buf, s.seq, _, rfl⟩
  | clkDelete =>
    simp only [exec, execClkDelete]
    split
    · exact .inr (.inl ⟨_, rfl⟩)
    · split
      · rename_i hb
        exact .inr (.inr ⟨trivial, hb, rfl⟩)
      · exact .inl ⟨false, s.buf, s.seq, _, rfl⟩

/-- What APPLY can do with the word in the mailbox: reject it with a fault, or perform its command's own rule. -/
theorem apply_cases (s : State) :
    (∃ f : FaultCode, apply s = .next (s.raise f)) ∨
    (∃ i, decode s.cdc.mbox = .ok i ∧ cOnly i = false ∧ apply s = exec i s) := by
  unfold apply applyWord
  split
  · exact .inl ⟨_, rfl⟩
  · rename_i i hi
    split
    · exact .inl ⟨_, rfl⟩
    · exact .inr ⟨i, hi, by simp_all, rfl⟩

/-! ### The HOST -/

/-- A program's step: it takes a response, issues a command, takes a step of its own, or has none. -/
theorem hostStep_cases (s : State) :
    (s.producer.awaiting = true ∧ hostStep s = hostComplete s) ∨
    (s.producer.awaiting = false ∧ ∃ i, s.producer.nextCommand s.draws = some i ∧ hostStep s = hostIssue i s) ∨
    (s.producer.awaiting = false ∧ s.producer.nextCommand s.draws = none ∧
      ∃ p, s.producer.silent s.draws = some p ∧ hostStep s = { s with producer := p, draws := s.draws + 1 }) ∨
    (s.producer.awaiting = false ∧ s.producer.nextCommand s.draws = none ∧ s.producer.silent s.draws = none ∧
      hostStep s = s) := by
  unfold hostStep
  cases ha : s.producer.awaiting with
  | true => exact .inl ⟨rfl, rfl⟩
  | false =>
    cases hc : s.producer.nextCommand s.draws with
    | some i => exact .inr (.inl ⟨rfl, i, rfl, rfl⟩)
    | none =>
      cases hs : s.producer.silent s.draws with
      | some p => exact .inr (.inr (.inl ⟨rfl, rfl, p, rfl, rfl⟩))
      | none => exact .inr (.inr (.inr ⟨rfl, rfl, rfl, rfl⟩))

/-- A step of the program that is no command leaves the handshake's HOST side alone: nothing was outstanding and nothing
is, and the HOST ran a program. -/
theorem silent_some (p q : Producer) (k : Nat) (h : p.silent k = some q) : q.awaiting = p.awaiting ∧ p.stage ≠ .free := by
  unfold Producer.silent at h
  split at h
  · cases h
  · rename_i hs
    refine ⟨?_, by simp [hs]⟩
    split at h
    · cases h; rfl
    · cases h; rfl
    · cases h; rfl
    · cases h
  · rename_i hs; cases h; exact ⟨rfl, by simp [hs]⟩
  · cases h
  · rename_i hs
    refine ⟨?_, by simp [hs]⟩
    cases h
    unfold Producer.atTop
    split
    · rfl
    · rfl
    · split <;> rfl
  · cases h
  · rename_i hs
    refine ⟨?_, by simp [hs]⟩
    cases h
    unfold Producer.afterDrain
    split <;> rfl
  · cases h
  · rename_i hs; cases h; exact ⟨rfl, by simp [hs]⟩
  · cases h
  · cases h

/-- Only a HOST that runs a program has a next command. -/
theorem nextCommand_some (p : Producer) (k : Nat) (i : Instr) (h : p.nextCommand k = some i) : p.stage ≠ .free := by
  intro hs
  simp [Producer.nextCommand, hs] at h

/-- Beginning a program either stands the HOST at it or is refused. -/
theorem hostStart_next (prog : Program) (s t : State) (h : hostStart prog s = .next t) :
    t = { s with producer := s.producer.begin prog } := by
  unfold hostStart at h
  split at h
  · cases h; rfl
  · split at h
    · cases h; rfl
    · cases h
  · split at h
    · cases h; rfl
    · cases h

end Sys2Proof.Machine
end

