-- ==== Sys2Proof/Laws/PerInstr.lean ====
section
/-! SUPPORT. One statement for each command about its encoding: its word matches its row of spec/opcode_table.json. -/

namespace Sys2Proof.Laws.TableRow

/-- The mask of the command's row: all bits but the operand fields of its format. -/
def mask : Instr → CmdWord
  | .bufPut _ _ => 0xFFFFFFFFF00000000
  | .dacWrite _ _ => 0xFFFFFFFFF00000000
  | .clkStart _ _ => 0xF0000000000000000
  | .bufReset => 0xFFFFFFFFFFFFFFFFF
  | .bufPoll => 0xFFFFFFFFFFFFFFFFF
  | .bufGet => 0xFFFFFFFFFFFFFFFFF
  | .drvOpen => 0xFFFFFFFFFFFFFFFFF
  | .drvRelease => 0xFFFFFFFFFFFFFFFFF
  | .clkStop => 0xFFFFFFFFFFFFFFFFF
  | .clkDisable => 0xFFFFFFFFFFFFFFFFF
  | .clkDelete => 0xFFFFFFFFFFFFFFFFF

/-- The match value of the command's row. -/
def value : Instr → CmdWord
  | .bufReset => 0x10000000000000000
  | .bufPut _ _ => 0x20000000000000000
  | .bufPoll => 0x30000000000000000
  | .bufGet => 0x40000000000000000
  | .dacWrite _ _ => 0x50000000000000000
  | .drvOpen => 0x60000000000000000
  | .drvRelease => 0x70000000000000000
  | .clkStart _ _ => 0x80000000000000000
  | .clkStop => 0x90000000000000000
  | .clkDisable => 0xA0000000000000000
  | .clkDelete => 0xB0000000000000000

/-- The command's word agrees with its row's match value on the bits of its mask. -/
def Statement (i : Instr) : Prop := encode i &&& mask i = value i

/-- The bits of a word under the FS mask are its upper 36. -/
theorem and_fsMask (o : BitVec 4) (h l : BitVec 32) :
    ((o ++ (h ++ l : BitVec 64) : BitVec 68) &&& 0xFFFFFFFFF00000000 : BitVec 68) = (o ++ (h ++ 0#32 : BitVec 64) : BitVec 68) := by
  apply BitVec.eq_of_toNat_eq
  have hl := l.isLt
  have e : (0xFFFFFFFFF00000000 : BitVec 68).toNat = (2 ^ 36 - 1) * 2 ^ 32 := by decide
  rw [BitVec.toNat_and, e, BitVec.toNat_append, BitVec.toNat_append, BitVec.toNat_append, BitVec.toNat_append]
  apply Nat.eq_of_testBit_eq
  intro i
  simp only [Nat.testBit_and, Nat.testBit_or, Nat.testBit_shiftLeft, Nat.testBit_mul_two_pow, Nat.testBit_two_pow_sub_one]
  by_cases h1 : 32 ≤ i
  · have hl2 : l.toNat.testBit i = false :=
      Nat.testBit_lt_two_pow (lt_of_lt_of_le hl (Nat.pow_le_pow_right (by decide) h1))
    by_cases h3 : i - 32 < 36
    · simp [h1, hl2, h3]
    · have h4 : h.toNat.testBit (i - 32) = false :=
        Nat.testBit_lt_two_pow (lt_of_lt_of_le h.isLt (Nat.pow_le_pow_right (by decide) (by omega)))
      have h5 : o.toNat.testBit (i - 64) = false :=
        Nat.testBit_lt_two_pow (lt_of_lt_of_le o.isLt (Nat.pow_le_pow_right (by decide) (by omega)))
      simp [h1, h3, hl2, h4, h5]
  · have h6 : ¬ 64 ≤ i := by omega
    simp [h1, h6]

/-- The bits of a word under the FC mask are its opcode. -/
theorem and_fcMask (o : BitVec 4) (p : BitVec 64) :
    ((o ++ p : BitVec 68) &&& 0xF0000000000000000 : BitVec 68) = (o ++ 0#64 : BitVec 68) := by
  apply BitVec.eq_of_toNat_eq
  have e : (0xF0000000000000000 : BitVec 68).toNat = (2 ^ 4 - 1) * 2 ^ 64 := by decide
  rw [BitVec.toNat_and, e, BitVec.toNat_append, BitVec.toNat_append]
  apply Nat.eq_of_testBit_eq
  intro i
  simp only [Nat.testBit_and, Nat.testBit_or, Nat.testBit_shiftLeft, Nat.testBit_mul_two_pow, Nat.testBit_two_pow_sub_one]
  by_cases h1 : 64 ≤ i
  · have hp : p.toNat.testBit i = false :=
      Nat.testBit_lt_two_pow (lt_of_lt_of_le p.isLt (Nat.pow_le_pow_right (by decide) h1))
    by_cases h3 : i - 64 < 4
    · simp [h1, hp, h3]
    · have h5 : o.toNat.testBit (i - 64) = false :=
        Nat.testBit_lt_two_pow (lt_of_lt_of_le o.isLt (Nat.pow_le_pow_right (by decide) (by omega)))
      simp [h1, h3, hp, h5]
  · simp [h1]

theorem bufReset : Statement .bufReset := by unfold Statement; decide
theorem bufPut (ch1 ch2 : Channel) : Statement (.bufPut ch1 ch2) := by
  unfold Statement
  exact (and_fsMask 2 0 (ch1 ++ ch2)).trans (by simp only [value]; decide)
theorem bufPoll : Statement .bufPoll := by unfold Statement; decide
theorem bufGet : Statement .bufGet := by unfold Statement; decide
theorem dacWrite (ch1 ch2 : Channel) : Statement (.dacWrite ch1 ch2) := by
  unfold Statement
  exact (and_fsMask 5 0 (ch1 ++ ch2)).trans (by simp only [value]; decide)
theorem drvOpen : Statement .drvOpen := by unfold Statement; decide
theorem drvRelease : Statement .drvRelease := by unfold Statement; decide
theorem clkStart (rate calq : BitVec 32) : Statement (.clkStart rate calq) := by
  unfold Statement
  exact (and_fcMask 8 (calq ++ rate)).trans (by simp only [value]; decide)
theorem clkStop : Statement .clkStop := by unfold Statement; decide
theorem clkDisable : Statement .clkDisable := by unfold Statement; decide
theorem clkDelete : Statement .clkDelete := by unfold Statement; decide

end Sys2Proof.Laws.TableRow
end

