-- ==== Sys2Proof/Laws/Step.lean ====
section
/-! SUPPORT. What one move and one step can do. -/

namespace Sys2Proof.Machine

/-- A move that is not enabled changes nothing; one that is has its effect (R14). -/
theorem perform_eq (m : Move) (s : State) :
    (enabled m s = true ∧ perform m s = act m s) ∨ (enabled m s = false ∧ perform m s = .next s) := by
  unfold perform
  cases h : enabled m s
  · exact .inr ⟨rfl, rfl⟩
  · exact .inl ⟨rfl, rfl⟩

/-- A move's next state is its own effect, or the state unchanged where it is not enabled. -/
theorem perform_next (m : Move) (s t : State) (h : perform m s = .next t) :
    (enabled m s = true ∧ act m s = .next t) ∨ (enabled m s = false ∧ t = s) := by
  rcases perform_eq m s with ⟨he, hp⟩ | ⟨he, hp⟩
  · exact .inl ⟨he, hp ▸ h⟩
  · rw [hp] at h
    cases h
    exact .inr ⟨he, rfl⟩

/-- A step's next state is its move's, from the state with that move taken off the schedule. -/
theorem step_next (s t : State) (h : step s = .next t) :
    s.cfg.valid = true ∧ perform (nextMove s) (takeMove s) = .next t := by
  unfold step stepMove at h
  split at h
  · exact ⟨‹_›, h⟩
  · cases h

/-- What an enabled move can make of a state: one constructor for each kind of change. -/
inductive Effect : Move → State → State → Prop where
  /-- rst_n (R340). -/
  | reset (s) : Effect .rstN s s.rstN
  /-- ISSUE by a HOST without a program (R242). -/
  | issued (w s) : s.cdc.phase = .idle → s.producer.stage = .free → Effect (.issue w) s (issue w s)
  /-- COMPLETE by a HOST without a program (R244). -/
  | completed (s) : s.cdc.phase = .done → s.producer.stage = .free → Effect .complete s (complete (catchUp s))
  /-- A STATUS read (R43). -/
  | statusRead (s) : Effect .readStatus s s.readStatus
  /-- A program begins (R275). -/
  | started (g s) : startEnabled s = true → Effect (.start g) s { s with producer := s.producer.begin g }
  /-- A write of CMD (R271). -/
  | cmdWritten (c s) : Effect (.writeCmd c) s { s with producer := s.producer.writeCmd c }
  /-- A write of VOL (R271). -/
  | volWritten (v s) : Effect (.writeVol v) s { s with producer := s.producer.writeVol v }
  /-- A program takes a response (R244). -/
  | hostCompleted (s) : s.producer.awaiting = true → s.cdc.phase = .done → Effect .host s (hostComplete s)
  /-- A program issues a command (R242). -/
  | hostIssued (i s) : s.producer.awaiting = false → s.cdc.phase = .idle →
      s.producer.nextCommand s.draws = some i → Effect .host s (hostIssue i s)
  /-- A program takes a step that is no command (R100, R273). -/
  | hostSilent (p s) : s.producer.awaiting = false → s.producer.silent s.draws = some p →
      Effect .host s { s with producer := p, draws := s.draws + 1 }
  /-- APPLY performs a P-port command's own rule (R243). -/
  | applied (i s t) : s.cdc.phase = .pending → s.err = 0 → held s = false → decode s.cdc.mbox = .ok i →
      cOnly i = false → exec i s = .next t → Effect .apply s t
  /-- APPLY rejects the word (R95, R96, R98). -/
  | rejected (f s) : s.cdc.phase = .pending → s.err = 0 → (f = .illegalCmd ∨ f = .portViolation) →
      Effect .apply s (s.raise f)
  /-- A count of the timer that raises no alarm (R203). -/
  | counted (s) : s.clk.state = .running → s.err = 0 → s.clk.tcount + 1 ≠ s.clk.alarm →
      Effect .count s { s with clk := { s.clk with tcount := s.clk.tcount + 1 } }
  /-- A TICK during a frame (R206). -/
  | overrun (m s) : (m = .tick ∨ m = .count) → s.clk.state = .running → s.err = 0 → s.seq.busy = true →
      s.cfg.overrun = .fault → Effect m s (s.raise .tickOverrun)
  /-- A TICK: BUF_GET's next state, and a frame of its sample (R205). By a count, TCOUNT has reloaded (R203). -/
  | ticked (m s n u) : (m = .tick ∧ n = s.clk.tcount ∨ m = .count ∧ n = 0 ∧ s.clk.tcount + 1 = s.clk.alarm) →
      s.clk.state = .running → s.err = 0 → s.seq.busy = false →
      execBufGet { s with clk := { s.clk with tcount := n } } = .next u →
      Effect m s { u with seq := { u.seq with data := u.getData, step := 0, busy := true } }
  /-- A GPIO write of the frame (R164). -/
  | wrote (s) : s.seq.busy = true → s.err = 0 → Effect .seq s (seqStep s)
  /-- SYNC (R250). -/
  | synced (s) : s.cdc.rsSync ≠ s.buf.rs → Effect .sync s (sync s)

/-- An enabled move has one of the listed effects. -/
theorem act_next (m : Move) (s t : State) (he : enabled m s = true) (h : act m s = .next t) : Effect m s t := by
  cases m with
  | issue w =>
    simp only [enabled, hostFree, Bool.and_eq_true, beq_iff_eq] at he
    cases h; exact .issued w s he.1 he.2
  | complete =>
    simp only [enabled, hostFree, Bool.and_eq_true, beq_iff_eq] at he
    cases h; exact .completed s he.1 he.2
  | readStatus => cases h; exact .statusRead s
  | rstN => cases h; exact .reset s
  | start g => rw [hostStart_next g s t h]; exact .started g s he
  | host =>
    cases h
    simp only [enabled, hostEnabled] at he
    rcases hostStep_cases s with ⟨ha, h⟩ | ⟨ha, i, hc, h⟩ | ⟨ha, hc, p, hs, h⟩ | ⟨ha, hc, hs, h⟩
    · rw [h]; exact .hostCompleted s ha (by simpa [ha] using he)
    · rw [h]; exact .hostIssued i s ha (by simpa [ha, hc] using he) hc
    · rw [h]; exact .hostSilent p s ha hs
    · simp [ha, hc, hs] at he
  | writeCmd c => cases h; exact .cmdWritten c s
  | writeVol v => cases h; exact .volWritten v s
  | apply =>
    simp only [enabled, applyEnabled, Bool.and_eq_true, beq_iff_eq, Bool.not_eq_true'] at he
    obtain ⟨⟨hp, h0⟩, hh⟩ := he
    simp only [act, apply, applyWord] at h
    split at h
    · cases h; exact .rejected _ s hp h0 (.inl rfl)
    · rename_i i hi
      split at h
      · cases h; exact .rejected _ s hp h0 (.inr rfl)
      · exact .applied i s t hp h0 hh hi (by simp_all) h
  | count =>
    simp only [enabled, countEnabled, Bool.and_eq_true, beq_iff_eq] at he
    obtain ⟨⟨hr, h0⟩, hd⟩ := he
    rcases count_next s t h with ⟨ha, ht⟩ | ⟨ha, hb, ht⟩ | ⟨ha, hb, ht⟩
    · rw [ht]; exact .counted s hr h0 (by simpa [alarmDue] using ha)
    · rw [ht]; exact .overrun _ s (.inr rfl) hr h0 hb (by simpa [ha, tickEnabled, hb, hr, h0] using hd)
    · rcases tick_next _ t ht with ⟨hb2, _⟩ | ⟨_, u, hu, ht⟩
      · simp [hb] at hb2
      · rw [ht]; exact .ticked _ s 0 u (.inr ⟨rfl, rfl, by simpa [alarmDue] using ha⟩) hr h0 hb hu
  | tick =>
    simp only [enabled, tickEnabled, Bool.and_eq_true, beq_iff_eq] at he
    obtain ⟨⟨hr, h0⟩, ho⟩ := he
    rcases tick_next s t h with ⟨hb, ht⟩ | ⟨hb, u, hu, ht⟩
    · rw [ht]; exact .overrun _ s (.inl rfl) hr h0 hb (by simpa [hb] using ho)
    · rw [ht]; exact .ticked _ s s.clk.tcount u (.inl ⟨rfl, rfl⟩) hr h0 hb hu
  | seq =>
    simp only [enabled, Bool.and_eq_true, beq_iff_eq] at he
    cases h; exact .wrote s he.1 he.2
  | sync =>
    simp only [enabled, bne_iff_ne, ne_eq] at he
    cases h; exact .synced s he

/-- A move's next state: one of the listed effects, or the state unchanged where it is not enabled. -/
theorem perform_effect (m : Move) (s t : State) (h : perform m s = .next t) :
    Effect m s t ∨ (enabled m s = false ∧ t = s) := by
  rcases perform_next m s t h with ⟨he, ha⟩ | h
  · exact .inl (act_next m s t he ha)
  · exact .inr h

/-- A completed, faulted or held command: what APPLY of a P-port command can give. -/
theorem exec_port_next (i : Instr) (s t : State) (hp : cOnly i = false) (h : exec i s = .next t) :
    (∃ v b q c, t = answered v { s with buf := b, seq := q, clk := c }) ∨ (∃ f : FaultCode, t = s.raise f) ∨
    (i = .clkDelete ∧ s.seq.busy = true ∧ t = s) := by
  rcases exec_port i s hp with ⟨v, b, q, c, hx⟩ | ⟨f, hx⟩ | ⟨hi, hb, hx⟩ <;> rw [hx] at h <;> cases h
  · exact .inl ⟨v, b, q, c, rfl⟩
  · exact .inr (.inl ⟨f, rfl⟩)
  · exact .inr (.inr ⟨hi, hb, rfl⟩)

/-- A held command gives back the same state, and no enabled APPLY is of one. -/
theorem held_iff (s : State) : held s = true ↔
    decode s.cdc.mbox = .ok .clkDelete ∧ s.clk.state = .disabled ∧ s.seq.busy = true := by
  unfold held
  split
  · simp_all [and_assoc]
  · simp_all

end Sys2Proof.Machine
end

