-- ==== Sys2Proof/Tests/Slice0.lean ====
section
/-! SUPPORT. Tests against the spec's own words, tables and worked examples, and a witness for the hypotheses of every
obligation. Expected values come from 30_encoding.md and 95_test_vectors.md, never from the model. -/

namespace Sys2Proof.Tests

open Sys2Proof Sys2Proof.Machine

/-- The next state, if there is one. -/
def nx : Outcome → Option State
  | .next s => some s
  | .fault _ => none
  | .refused _ => none

/-- A word waits in the mailbox for its APPLY. -/
def port (w : CmdWord) (s : State) : State := { s with cdc := { s.cdc with mbox := w, phase := .pending, reqT := !s.cdc.ackT } }

/-- The buffer registers of a state: RS, RP, FL[0], FL[1], ND. -/
def bufRegs (s : State) : List Nat := [s.buf.rs.num, s.buf.rp, s.buf.fl0, s.buf.fl1, s.buf.nd.toNat]

/-- The buffer at given registers, after reset (BUF_N = 4). -/
def atBuf (rs : Slot) (rp f0 f1 : Nat) (nd : Bool) : State :=
  { State.reset with buf := { rs := rs, rp := rp, fl0 := f0, fl1 := f1, nd := nd, slots := [] } }

/-- The buffer after BUF_RESET and a BUF_POLL: the write slot is empty. -/
def polled : State := atBuf .s0 0 4 0 false

/-- An open driver, no timer. -/
def opened : State := { State.reset with seq := { State.reset.seq with drv := .opened, pins := Pins.all .low } }

/-- A session: an open driver and a timer in the given lifecycle state. -/
def inClk (c : ClkState) : State := { opened with clk := { state := c, alarm := 22, tcount := 0 } }

/-- A session that runs. -/
def running : State := inClk .running

/-- A frame of a sample in flight, at a given write. -/
def framing (c : ClkState) (v : Sample) (j : Nat) : State :=
  { inClk c with seq := { (inClk c).seq with busy := true, step := j, data := v, pins := pinsAfter v j (Pins.all .low) } }

/-- The same state under OVERRUN_MODEL = FAULT. -/
def overrunFault (s : State) : State := { s with cfg := { s.cfg with overrun := .fault } }

/-- A halted state. -/
def halted (s : State) : State := { s with err := 4 }

/-! ### Encoding (30_encoding.md R90 to R98, R105; 95_test_vectors.md 2.1) -/

/-- Every command's word, its fields written out from R90 to R94: OPC, then PAYLOAD. -/
theorem test_decode_fields :
    decode (0x1#4 ++ 0x0000000000000000#64) = .ok .bufReset ∧
    decode (0x2#4 ++ 0x00000000#32 ++ 0xFFFF#16 ++ 0x0002#16) = .ok (.bufPut 0xFFFF 0x0002) ∧
    decode (0x3#4 ++ 0x0000000000000000#64) = .ok .bufPoll ∧
    decode (0x4#4 ++ 0x0000000000000000#64) = .ok .bufGet ∧
    decode (0x5#4 ++ 0x00000000#32 ++ 0x8001#16 ++ 0x0001#16) = .ok (.dacWrite 0x8001 0x0001) ∧
    decode (0x6#4 ++ 0x0000000000000000#64) = .ok .drvOpen ∧
    decode (0x7#4 ++ 0x0000000000000000#64) = .ok .drvRelease ∧
    decode (0x8#4 ++ 0x00010000#32 ++ 0x0000AC44#32) = .ok (.clkStart 44100 0x00010000) ∧
    decode (0x9#4 ++ 0x0000000000000000#64) = .ok .clkStop ∧
    decode (0xA#4 ++ 0x0000000000000000#64) = .ok .clkDisable ∧
    decode (0xB#4 ++ 0x0000000000000000#64) = .ok .clkDelete := by
  refine ⟨?_, ?_, ?_, ?_, ?_, ?_, ?_, ?_, ?_, ?_, ?_⟩ <;> rfl

/-- One word of each family bit by bit: bits 67 down to 0 (R90). -/
theorem test_decode_bits :
    decode 0b00100000000000000000000000000000000010000000000000010000000000000001 = .ok (.bufPut 0x8001 0x0001) ∧
    decode 0b01010000000000000000000000000000000000000000011001001111111110011100 = .ok (.dacWrite 100 0xFF9C) ∧
    decode 0b10000000000000000001000000000000000000000000000000000001111101000000 = .ok (.clkStart 8000 0x00010000) := by
  refine ⟨?_, ?_, ?_⟩ <;> rfl

/-- The words of 95_test_vectors.md 2.1 that select no command are rejected by name. -/
theorem test_decode_rejects :
    decode 0x00000000000000000 = .error (.reservedOpcode 0x0) ∧
    decode 0xC0000000000000000 = .error (.reservedOpcode 0xC) ∧
    decode 0xF0000000000000000 = .error (.reservedOpcode 0xF) ∧
    decode 0x10000000000000001 = .error (.reservedPayload 0x1) ∧
    decode 0x20000000100000000 = .error (.reservedPayload 0x2) ∧
    decode 0x40000000000000001 = .error (.reservedPayload 0x4) := by
  refine ⟨?_, ?_, ?_, ?_, ?_, ?_⟩ <;> rfl

/-- The encoder writes the worked words of R105. -/
theorem test_encode_words :
    encode .bufReset = 0x10000000000000000 ∧ encode (.bufPut 0x8001 1) = 0x20000000080010001 ∧
    encode .bufPoll = 0x30000000000000000 ∧ encode .bufGet = 0x40000000000000000 ∧
    encode (.dacWrite 0x8001 1) = 0x50000000080010001 ∧ encode .drvOpen = 0x60000000000000000 ∧
    encode .drvRelease = 0x70000000000000000 ∧ encode (.clkStart 44100 0x10000) = 0x8000100000000AC44 ∧
    encode .clkStop = 0x90000000000000000 ∧ encode .clkDisable = 0xA0000000000000000 ∧
    encode .clkDelete = 0xB0000000000000000 := by decide

/-- A table row's word decodes to the row's command. -/
theorem test_decodeTableWord :
    decodeTableWord 68 0x30000000000000000 = some .bufPoll ∧ decodeTableWord 72 0xB0000000000000000 = some .clkDelete ∧
    decodeTableWord 72 0x1B0000000000000000 = none := by decide

/-! ### Ill-formed terms (R100, R279, R344) -/

theorem test_wf_config :
    Config.vectors.valid = true ∧ { Config.vectors with bufN := 0 }.valid = false ∧
    { Config.vectors with timerResHz := 0 }.valid = false ∧ { Config.vectors with timerWidth := 0 }.valid = false := by
  decide

theorem test_wf_script :
    scriptWf (pollWait 1) = true ∧ scriptWf [⟨none, some (.bufPut (.dec (-32768)) (.dec 32767))⟩] = true ∧
    scriptWf [⟨none, some (.bufPut (.dec 40000) (.dec 0))⟩] = false ∧ scriptWf [⟨none, some (.bufPut (.dec 0) (.dec (-32769)))⟩] = false ∧
    scriptWf [⟨none, some (.clkStart (2 ^ 32) 1)⟩] = false ∧ scriptWf [⟨none, some (.clkStart 1 (2 ^ 32))⟩] = false ∧
    scriptWf [⟨some 1, some (.jz 2)⟩] = false ∧ scriptWf [⟨some 1, some (.jmp 2)⟩] = false := by decide

theorem test_wf_stream :
    Stream.wf ⟨16, 2, []⟩ = true ∧ Stream.wf ⟨16, 1, []⟩ = false ∧ Stream.wf ⟨16, 3, []⟩ = false := by decide

/-- A machine whose configuration breaks R344 refuses its step. -/
theorem test_bad_configuration :
    step (State.resetWith { Config.vectors with bufN := 0 }) = .refused .badConfiguration := rfl

/-! ### Scripts (R100 to R104; program P1 of 95_test_vectors.md) -/

/-- A put's operands in decimal and in hex are the same bit pattern. -/
theorem test_script_operands :
    (ScriptOp.bufPut (.dec (-1)) (.dec 2)).asm = some (.bufPut 0xFFFF 2) ∧
    (ScriptOp.bufPut (.hex 0xFFFF) (.hex 2)).asm = some (.bufPut 0xFFFF 2) := by decide

/-- Program P1 of 95_test_vectors.md. -/
def p1 : List ScriptLine :=
  [⟨none, some .bufReset⟩, ⟨some 1, some .bufPoll⟩, ⟨none, some (.jz 1)⟩, ⟨none, some (.bufPut (.dec 1) (.dec (-1)))⟩,
   ⟨none, some (.bufPut (.dec 2) (.dec (-2)))⟩, ⟨none, some (.bufPut (.dec 3) (.dec (-3)))⟩,
   ⟨none, some (.bufPut (.dec 4) (.dec (-4)))⟩, ⟨none, some (.bufPut (.dec 5) (.dec (-5)))⟩, ⟨none, some .bufPoll⟩,
   ⟨none, some (.jz 2)⟩, ⟨none, some (.bufPut (.dec 9) (.dec 9))⟩, ⟨some 2, none⟩]

/-- P1 begins, its JZ DONE goes to the label at its end, and there the program has no next command. -/
theorem test_script_p1 :
    scriptWf p1 = true ∧
    (({ program := .script p1, stage := .script 9, lastResp := false } : Producer).silent 0).map (fun p => (p.stage, p.done))
      = some (.script 11, true) := by decide

/-- JZ jumps after a 0 and falls through after a 1. -/
theorem test_script_jz :
    (({ program := .script (pollWait 7), stage := .script 1, lastResp := false } : Producer).silent 0).map (fun p => p.stage)
      = some (.script 0) ∧
    (({ program := .script (pollWait 7), stage := .script 1, lastResp := true } : Producer).silent 0).map (fun p => p.stage)
      = some (.script 2) := by decide

/-! ### Buffer commands (95_test_vectors.md 1.3, 2.2) -/

theorem test_bufReset : (nx (exec .bufReset (atBuf .s1 3 0 2 false))).map bufRegs = some [0, 0, 4, 4, 1] := by decide

theorem test_bufReset_running : (nx (exec .bufReset running)).map (fun t => (t.err, t.cdc.phase)) = some (4, .idle) := by
  decide

theorem test_bufPut_stores :
    (nx (exec (.bufPut 100 (BitVec.ofInt 16 (-100))) polled)).map (fun t => (bufRegs t, t.buf.slots, t.cdc.resp))
      = some ([0, 0, 4, 1, 0], [(4, 0x0064FF9C)], false) := by decide

/-- The write slot is slot 0; the sample is stored unchanged; the slot that is full discards. -/
theorem test_bufPut_slot0 :
    (nx (exec (.bufPut 0x8000 0x8000) (atBuf .s1 0 2 4 false))).map (fun t => (bufRegs t, t.buf.slots))
      = some ([1, 0, 3, 4, 0], [(2, 0x80008000)]) ∧
    (nx (exec (.bufPut 1 1) (atBuf .s0 0 4 4 true))).map (fun t => (bufRegs t, t.buf.slots))
      = some ([0, 0, 4, 4, 1], []) := by decide

theorem test_bufPoll :
    (nx (exec .bufPoll (atBuf .s1 0 3 4 true))).map (fun t => (bufRegs t, t.cdc.resp))
      = some ([1, 0, 0, 4, 0], true) := by decide

theorem test_bufPoll_again :
    (nx (exec .bufPoll polled)).map (fun t => (bufRegs t, t.cdc.resp)) = some ([0, 0, 4, 0, 0], false) := by decide

/-- RS=0 RP=4 FL=[4,4]: swap, SLOT[1][0]. -/
theorem test_bufGet_swap :
    (nx (exec .bufGet { atBuf .s0 4 4 4 false with buf := { (atBuf .s0 4 4 4 false).buf with slots := [(4, 7)] } })).map
      (fun t => (bufRegs t, t.getData)) = some ([1, 1, 4, 4, 1], 7) := by decide

/-- RS=1 RP=2 FL=[0,2]: underrun into slot 0. RS=0 RP=2 ND=1: no swap. -/
theorem test_bufGet_underrun :
    (nx (exec .bufGet (atBuf .s1 2 0 2 false))).map bufRegs = some [0, 1, 0, 2, 1] ∧
    (nx (exec .bufGet (atBuf .s0 2 4 4 true))).map bufRegs = some [0, 3, 4, 4, 1] := by decide

/-! ### DAC sequencer (95_test_vectors.md 1.5, 2.3) -/

theorem test_drvOpen :
    (nx (exec .drvOpen State.reset)).map (fun t => (t.seq.drv, t.seq.pins, t.seq.trace))
      = some (.opened, Pins.all .low, [TraceEntry.opened]) := by decide

/-- PIN_D1 = PIN_D2 is GPIO_CONFIG; on an open driver LIFECYCLE is first. -/
theorem test_drvOpen_faults :
    (nx (exec .drvOpen (State.resetWith { Config.vectors with pinD1 := 2 }))).map (fun t => (t.err, t.seq.drv))
      = some (6, .closed) ∧
    (nx (exec .drvOpen { opened with cfg := { Config.vectors with pinD1 := 2 } })).map (fun t => t.err) = some 3 := by
  decide

theorem test_dacWrite :
    (nx (exec (.dacWrite 0x8001 0x0001) running)).map (fun t => (t.seq.data, t.seq.step, t.seq.busy, t.seq.pins))
      = some (0x80010001, 0, true, Pins.all .low) := by decide

/-- The writes 0, 1, 5, 61 and 64 of the frame of 0x80010001. -/
theorem test_frame_writes :
    frameWrite 0x80010001 0 = (.clr, { d2 := true }) ∧ frameWrite 0x80010001 1 = (.set, { d1 := true }) ∧
    frameWrite 0x80010001 5 = (.set, { le := true }) ∧ frameWrite 0x80010001 61 = (.set, { d1 := true, d2 := true }) ∧
    frameWrite 0x80010001 64 = (.clr, { le := true }) := by decide

/-- The chips of the frames of 0x80010001 and 0x0064FF9C. -/
theorem test_frame_observed :
    (observe (frameTrace 0x80010001) (Pins.all .low) ⟨0, 0, 0, 0⟩).out1 = 0x8001 ∧
    (observe (frameTrace 0x80010001) (Pins.all .low) ⟨0, 0, 0, 0⟩).out2 = 0x0001 ∧
    (observe (frameTrace 0x0064FF9C) (Pins.all .low) ⟨9, 9, 9, 9⟩).out2 = 0xFF9C := by decide +kernel

theorem test_drvRelease :
    (nx (exec .drvRelease opened)).map (fun t => (t.seq.drv, t.seq.pins, t.seq.trace))
      = some (.closed, Pins.all .z, [TraceEntry.released]) := by decide

theorem test_drvRelease_timer :
    (nx (exec .drvRelease (inClk .stopped))).map (fun t => (t.err, t.seq.drv)) = some (3, .opened) ∧
    (nx (exec .drvRelease State.reset)).map (fun t => t.err) = some 3 := by decide

/-- gpio_mask and the two physical registers (R171). -/
theorem test_gpioMask :
    gpioMask { Config.vectors with pinD1 := 5, pinLe := 12 } { d1 := true, le := true } = 0x1020 ∧
    physicalWrite Config.vectors .clr { clk := true } = (1, 1) := by decide

/-! ### Sample clock (95_test_vectors.md 2.1, 2.4) -/

/-- The alarm table of 95_test_vectors.md 2.4 and the word `8_FFFFFFFF_FFFFFFFF` of 2.1. -/
theorem test_alarmTicks :
    alarmTicks Config.vectors 44100 0x10000 = 22 ∧ alarmTicks Config.vectors 8000 0x10000 = 125 ∧
    alarmTicks Config.vectors 44100 0x8000 = 11 ∧
    alarmTicks { Config.vectors with timerResHz := 80000000 } 44100 0x10000 = 1814 ∧
    alarmTicks { Config.vectors with timerResHz := 80000000 } 44100 0x10042 = 1815 ∧
    alarmTicks { Config.vectors with timerResHz := 40000000 } 48000 0x10000 = 833 ∧
    alarmTicks Config.vectors 0xFFFFFFFF 0xFFFFFFFF = 15 := by decide

theorem test_clkStart :
    (nx (exec (.clkStart 44100 0x10000) opened)).map (fun t => (t.clk, t.cdc.phase))
      = some (⟨.running, 22, 0⟩, .done) := by decide

/-- rate 0, calq 0, a = 0, and both edges of a 4-bit timer; CLK_START in RUNNING with rate 0 is LIFECYCLE. -/
theorem test_clkStart_faults :
    (nx (exec (.clkStart 0 0x10000) opened)).map (fun t => t.err) = some 5 ∧
    (nx (exec (.clkStart 44100 0) opened)).map (fun t => t.err) = some 5 ∧
    (nx (exec (.clkStart 2000000 0x10000) opened)).map (fun t => t.err) = some 5 ∧
    (nx (exec (.clkStart 66666 0x10000) { opened with cfg := { Config.vectors with timerWidth := 4 } })).map
      (fun t => t.clk.alarm) = some 15 ∧
    (nx (exec (.clkStart 62500 0x10000) { opened with cfg := { Config.vectors with timerWidth := 4 } })).map
      (fun t => t.err) = some 5 ∧
    (nx (exec (.clkStart 0 0x10000) running)).map (fun t => t.err) = some 3 := by decide

theorem test_clkStop :
    (nx (exec .clkStop running)).map (fun t => t.clk.state) = some .stopped ∧
    (nx (exec .clkStop State.reset)).map (fun t => t.err) = some 3 := by decide

theorem test_clkDisable :
    (nx (exec .clkDisable (inClk .stopped))).map (fun t => t.clk.state) = some .disabled ∧
    (nx (exec .clkDisable running)).map (fun t => t.err) = some 3 := by decide

theorem test_clkDelete :
    (nx (exec .clkDelete (inClk .disabled))).map (fun t => t.clk) = some ⟨.none, 0, 0⟩ ∧
    (nx (exec .clkDelete (inClk .stopped))).map (fun t => t.err) = some 3 := by decide

/-- CLK_DELETE holds during a frame: nothing changes and the command stays pending. -/
theorem test_clkDelete_holds :
    (nx (perform .apply (port (encode .clkDelete) (framing .disabled 0 10)))).map (fun t => (t.cdc.phase, t.clk.state))
      = some (.pending, .disabled) := by decide

/-- A TICK during a frame: not enabled under EXCLUDED, TICK_OVERRUN under FAULT. -/
theorem test_tick_overrun :
    enabled .tick (framing .running 0 10) = false ∧
    (nx (perform .tick (overrunFault (framing .running 0 10)))).map (fun t => (t.err, t.seq.step)) = some (7, 10) := by
  decide

/-- The count that reaches ALARM reloads TCOUNT and starts a frame (R203). -/
theorem test_count_alarm :
    (nx (perform .count { running with clk := ⟨.running, 22, 21⟩ })).map (fun t => (t.clk.tcount, t.seq.busy)) = some (0, true) ∧
    (nx (perform .count { running with clk := ⟨.running, 22, 20⟩ })).map (fun t => (t.clk.tcount, t.seq.busy)) = some (21, false) := by
  decide

/-! ### The crossing, STATUS and faults (95_test_vectors.md 2.5, 2.6, P4) -/

/-- The words of 95_test_vectors.md 2.1 on the P port: ERR after their APPLY. -/
theorem test_port_words :
    (nx (perform .apply (port 0x00000000000000000 State.reset))).map (fun t => (t.err, t.cdc.phase)) = some (1, .pending) ∧
    (nx (perform .apply (port 0x40000000000000000 State.reset))).map (fun t => t.err) = some 2 ∧
    (nx (perform .apply (port 0x40000000000000001 State.reset))).map (fun t => t.err) = some 1 ∧
    (nx (perform .apply (port 0x50000000080010001 State.reset))).map (fun t => t.err) = some 2 ∧
    (nx (perform .apply (port 0x8FFFFFFFFFFFFFFFF opened))).map (fun t => t.clk.alarm) = some 15 := by decide

/-- ISSUE, APPLY and COMPLETE of a BUF_POLL after reset: the HOST receives 1. -/
theorem test_handshake :
    (nx (runMoves [.issue 0x30000000000000000, .apply, .complete] State.reset)).map
      (fun t => (t.cdc.phase, t.producer.lastResp, bufRegs t)) = some (.idle, true, [0, 0, 4, 0, 0]) := by decide

/-- STATUS after SESSION_BEGIN with an idle CDC, and after RESET_WHILE_ACTIVE: 0x0005, and 0x0415 for the wire. -/
theorem test_status :
    running.status = 0x0005 ∧ { port (encode .bufReset) running with err := 4 }.status = 0x0415 ∧
    State.reset.status = 0x0000 := by decide

/-- A halted block takes nothing but rst_n, which clears ERR and loses the command (P4). -/
theorem test_halted :
    enabled .apply (halted (port (encode .bufReset) running)) = false ∧ enabled .tick (halted running) = false ∧
    (nx (perform .rstN (halted (port (encode .bufReset) running)))).map (fun t => (t.err, t.cdc.phase, t.clk.state, t.seq.pins))
      = some (0, .idle, .none, Pins.all .z) := by decide

/-- The state after P1 is final, a session that runs is not (R357). -/
theorem test_finalState :
    finalState { polled with producer := { stage := .finished } } = true ∧ finalState running = false ∧
    finalState { State.reset with schedule := [.start (.track 44100 0x10000 (some ⟨16, 2, []⟩))] } = false := by decide

/-! ### The HOST (95_test_vectors.md 1.6, 2.7) -/

/-- The volume table. -/
theorem test_vshift :
    vshift 24 0 0x00ABCD00 = 0xABCD ∧ vshift 24 3 0x00ABCD00 = 0x5E68 ∧ vshift 16 (-2) 0x00001234 = 0x048D ∧
    vshift 16 2 0x00001234 = 0x48D0 ∧ vshift 24 0 0xFFFFFF00 = 0xFFFF ∧ vshift 24 0 0x80000000 = 0x0000 ∧
    vshift 24 (-100) 0x80000000 = 0xFFFF ∧ vshift 24 (-40) 0x00ABCD00 = 0x0000 ∧ vshift 16 0 0xFFFFFF9C = 0xFF9C ∧
    vshift 16 3 5 = 0x0028 ∧ vshift 16 5 0xFFFFFFFF = 0xFFE0 ∧ vshift 16 2 0x00007FFF = 0xFFFC ∧
    vshift 16 40 0x12345678 = 0x0000 := by decide

/-- A stop is consumed and ends the track with SESSION_END; the last block drained completes it (R273, R275). -/
theorem test_feedLoop_ends :
    (({ stage := .top } : Producer).atTop .stop).stage = .closing [.clkStop, .clkDisable, .clkDelete, .drvRelease] ∧
    (({ stage := .top } : Producer).atTop .stop).cmdLog.head? = some .idle ∧
    ({ stage := .drain [] } : Producer).afterDrain.trackEnd = some .complete := by decide

/-- SESSION_BEGIN is DRV_OPEN, BUF_RESET, CLK_START, in that order (R102). -/
theorem test_play_track :
    (Program.track 44100 0x10000 (some ⟨16, 2, []⟩)).firstStage = .opening [.drvOpen, .bufReset, .clkStart 44100 0x10000] := rfl

/-- A track whose metadata-decode phase fails issues no command and has ended by a decoder error (log 37). -/
theorem test_metadata_error :
    (nx (perform (.start (.track 44100 0x10000 none)) State.reset)).map (fun t =>
      (t.producer.stage, t.producer.trackEnd, t.cdc.phase, hostDone t)) = some (.finished, some .decoderError, .idle, true) := by
  decide

/-- No agent but the HOST has a step after reset (R313), and SYNC has one in a session where its copy lags RS (R250). -/
theorem test_sync_enabled : enabled .sync State.reset = false ∧ enabled .sync (running.withRsSync .s1) = true := by decide

/-- A BUF_RESET with no timer moves RS from 1 to 0, and in the idle condition after it SYNC has no step (R46, R315). -/
theorem test_idle_after_bufReset :
    (nx (runMoves [.issue (encode .bufReset), .apply, .complete] ((atBuf .s1 0 4 4 false).withRsSync .s1))).map
      (fun t => (t.cdc.phase, t.buf.rs, t.cdc.rsSync, enabled .sync t)) = some (.idle, .s0, .s0, false) := by decide

/-! ### A step runs a placed command -/

/-- The next step of a state with BUF_POLL placed performs it. -/
theorem test_withFetchWord :
    (nx (step (State.reset.withFetchWord 68 0x30000000000000000))).map (fun t => (bufRegs t, t.cdc.resp, t.cdc.phase))
      = some ([0, 0, 4, 0, 0], true, .done) := by decide

/-- DAC_WRITE placed runs in a TICK whose BUF_GET takes its sample. -/
theorem test_withFetchWord_dacWrite :
    (nx (step (State.reset.withFetchWord 68 0x50000000080010001))).map (fun t => (t.seq.data, t.seq.busy, t.err))
      = some (0x80010001, true, 0) := by decide

/-! ### Witnesses: states and operands that meet the hypotheses of the obligations -/

theorem witness_EncodeOfDecode : decode 0x2000000007FFF8000 = .ok (.bufPut 0x7FFF 0x8000) := rfl

theorem witness_SampleOperandAsGiven :
    (opcOf 0x2000000007FFF8000 = 2 ∧ (0x2000000007FFF8000 : CmdWord).extractLsb' 32 32 = 0) ∧
    (opcOf 0x500000000FFFF0000 = 5 ∧ (0x500000000FFFF0000 : CmdWord).extractLsb' 32 32 = 0) ∧
    (0x8000 : Channel).toInt = -32768 ∧ (0x7FFF : Channel).toInt = 32767 := by decide

/-- Opcodes 0, 0xC and 0xF, the edges of the reserved ranges. -/
theorem witness_ReservedOpcodeFaults :
    [(0x00000000000000000 : CmdWord), 0xC0000000000000000, 0xFFFFFFFFFFFFFFFFF].all (fun w =>
      let s := port w State.reset
      decide (s.cdc.phase = .pending ∧ s.err = 0 ∧ (opcOf s.cdc.mbox = 0 ∨ 12 ≤ (opcOf s.cdc.mbox).toNat))) = true := by
  decide

/-- The lowest and the highest reserved bit of F0 and of FS, and a word of FC. -/
theorem witness_ReservedPayloadFaults :
    [(0x10000000000000001 : CmdWord), 0xB8000000000000000].all (fun w =>
      let s := port w running
      decide (s.cdc.phase = .pending ∧ s.err = 0 ∧ opcOf s.cdc.mbox ∈ [1, 3, 4, 6, 7, 9, 10, 11] ∧
        payloadOf s.cdc.mbox ≠ 0)) = true ∧
    [(0x20000000100000000 : CmdWord), 0x58000000000000000].all (fun w =>
      let s := port w running
      decide (s.cdc.phase = .pending ∧ s.err = 0 ∧ opcOf s.cdc.mbox ∈ [2, 5] ∧
        (payloadOf s.cdc.mbox).extractLsb' 32 32 ≠ 0)) = true ∧
    opcOf 0x8FFFFFFFFFFFFFFFF = 8 := by decide

theorem witness_ConsumerCommandOnPortFaults : ∀ i ∈ [Instr.bufGet, .dacWrite 0x8001 1],
    (port (encode i) running).cdc.phase = .pending ∧ (port (encode i) running).err = 0 ∧
    (port (encode i) running).cdc.mbox = encode i := by decide

/-- A word for each way out of the decode order, the command's own rule and its fault among them. -/
theorem witness_ApplyDecodesInOrder :
    [(0x00000000000000000 : CmdWord), 0xC0000000000000000, 0x20000000100000000, 0x40000000000000001,
      0x40000000000000000, 0x50000000000000000, 0x10000000000000000, 0x80000000000000000, 0xB0000000000000000].all
      (fun w => let s := port w running; decide (s.cdc.phase = .pending ∧ s.err = 0 ∧ held s = false)) = true := by
  decide

theorem witness_BufResetRestoresInitialBuffer : (inClk .stopped).clk.state ≠ .running := by decide

theorem witness_BufResetWhileRunningFaults : running.clk.state = .running ∧ State.reset.clk.state ≠ .running := by decide

/-- An empty write slot and one with one entry left, for each write slot. -/
theorem witness_BufPutStoresAtWritePosition : ∀ s ∈ [polled, atBuf .s0 0 4 3 false, atBuf .s1 0 0 4 false],
    s.buf.fl s.buf.rs.other < s.cfg.bufN := by decide

theorem witness_BufPutAtCapacityDiscards : ∀ s ∈ [State.reset, atBuf .s1 0 4 0 true],
    s.cfg.bufN ≤ s.buf.fl s.buf.rs.other := by decide

theorem witness_BufPollConsumesEdge : State.reset.buf.nd = true ∧ polled.buf.nd = false := by decide

/-- No swap at the first and the last entry, and a swap out of a full and out of an empty slot. -/
theorem witness_BufGetTakesNextSample :
    (∀ s ∈ [State.reset, atBuf .s0 3 4 4 false], ¬ s.buf.fl s.buf.rs ≤ s.buf.rp ∧ s.buf.rp < s.cfg.bufN) ∧
    (∀ s ∈ [atBuf .s0 4 4 4 false, atBuf .s1 0 0 0 false], s.buf.fl s.buf.rs ≤ s.buf.rp ∧ 0 < s.cfg.bufN) := by decide

/-- A state whose BUF_GET addresses no entry, and one of the invariant at its edge. -/
theorem witness_BufGetStopsOnlyOutOfRange :
    (atBuf .s0 4 5 4 false).cfg.bufN ≤ (if (atBuf .s0 4 5 4 false).buf.fl .s0 ≤ 4 then 0 else 4) ∧
    1 ≤ (atBuf .s0 4 4 0 false).cfg.bufN ∧ BufInv (atBuf .s0 4 4 0 false) := by decide

theorem witness_EveryTickStartsFrame :
    1 ≤ running.cfg.bufN ∧ BufInv running ∧ enabled .tick running = true ∧ running.seq.busy = false := by decide

theorem witness_UnderrunReplaysStaleEntry : 1 ≤ (atBuf .s1 2 0 2 false).cfg.bufN ∧
    (atBuf .s1 2 0 2 false).buf.fl (atBuf .s1 2 0 2 false).buf.rs ≤ (atBuf .s1 2 0 2 false).buf.rp ∧
    (atBuf .s1 2 0 2 false).buf.fl (atBuf .s1 2 0 2 false).buf.rs.other = 0 := by decide

/-- A state of the invariant that steps by a TICK which swaps, and a command that completes. -/
theorem witness_BufferInvariantsHold :
    BufInv { running with buf := (atBuf .s0 4 4 0 false).buf, schedule := [.tick] } ∧
    (∃ t, step { running with buf := (atBuf .s0 4 4 0 false).buf, schedule := [.tick] } = .next t ∧ t.buf.rp = 1) ∧
    (∃ t, exec (.bufPut 1 2) polled = .next t) :=
  ⟨by decide, ⟨_, rfl, by decide⟩, ⟨_, rfl⟩⟩

/-- APPLY of a BUF_POLL clears ND, and a TICK that swaps sets it. -/
theorem witness_NeedsDataEdgeWriters :
    (∃ t, perform .apply (port (encode .bufPoll) State.reset) = .next t ∧ t.buf.nd ≠ State.reset.buf.nd) ∧
    (∃ t, perform .tick { running with buf := (atBuf .s0 4 4 4 false).buf } = .next t ∧ t.buf.nd ≠ false) ∧
    (∃ t, exec .bufReset polled = .next t) :=
  ⟨⟨_, rfl, by decide⟩, ⟨_, rfl, by decide⟩, ⟨_, rfl⟩⟩

/-- A written entry of slot 0, its last, and three samples put. -/
theorem witness_RoundTripKeepsOrder :
    let s := { State.reset with buf := { State.reset.buf with slots := [(3, 9)] } }
    s.clk.state ≠ .running ∧ (3 < s.cfg.bufN ∧ memRead s.buf.slots (slotAddr s.cfg.bufN .s0 3) = some 9) ∧
    (2 < s.cfg.bufN ∧ [((0 : Channel), (1 : Channel)), (0, 2), (0, 3)][2]? = some (0, 3)) := by decide

theorem witness_ReadSlotEntriesUntouched : Move.apply ≠ .rstN ∧
    (∃ t, perform .apply (port (encode (.bufPut 1 2)) polled) = .next t ∧ t.buf.slots ≠ []) ∧ 3 < polled.cfg.bufN :=
  ⟨by decide, ⟨_, rfl, by decide⟩, by decide⟩

/-- The pins are pairwise distinct valid outputs, as DrvOpenTakesPins writes it. -/
abbrev validPins (c : Config) : Prop :=
  (c.pinClk ≠ c.pinD1 ∧ c.pinClk ≠ c.pinD2 ∧ c.pinClk ≠ c.pinLe ∧ c.pinD1 ≠ c.pinD2 ∧
      c.pinD1 ≠ c.pinLe ∧ c.pinD2 ≠ c.pinLe) ∧
    (c.pinClk ∈ c.validOutPins ∧ c.pinD1 ∈ c.validOutPins ∧ c.pinD2 ∈ c.validOutPins ∧ c.pinLe ∈ c.validOutPins)

/-- A closed driver with valid pins, with a pin used twice and with a pin that is no output, and an open one. -/
theorem witness_DrvOpenTakesPins :
    State.reset.seq.drv = .closed ∧ validPins State.reset.cfg ∧
    ¬ validPins { Config.vectors with pinD1 := 2 } ∧ ¬ validPins { Config.vectors with pinLe := 4 } ∧
    opened.seq.drv = .opened := by decide

/-- A closed driver, one with a timer, and one that can be released. -/
theorem witness_DrvReleaseFloatsPins :
    State.reset.seq.drv = .closed ∧ (inClk .disabled).clk.state ≠ .none ∧
    (opened.seq.drv = .opened ∧ opened.clk.state = .none) := by decide

/-- The first and the last write of each phase, the bit that raises LE, and the final write. -/
theorem witness_SeqStepWritesGroup : ∀ j ∈ [0, 60, 1, 5, 61, 2, 62, 3, 63, 64],
    (framing .running 0x80010001 j).seq.busy = true ∧ (framing .running 0x80010001 j).err = 0 ∧
    ((j < 64 ∧ j % 4 < 4) ∨ 64 ≤ j) := by decide +kernel

theorem witness_FrameIsSixtyFiveWrites : (framing .stopped 0xFFFFFFFF 0).seq.busy = true ∧
    (framing .stopped 0xFFFFFFFF 0).seq.step = 0 ∧ (framing .stopped 0xFFFFFFFF 0).err = 0 := by decide

theorem witness_FrameReachesBothDacs : (Pins.all .low).clk = .low ∧ (Pins.all .low).le = .low := by decide

/-- Lines as an earlier frame can leave them. -/
theorem witness_FramePulseTotals :
    ({ clk := .low, d1 := .high, d2 := .low, le := .low } : Pins).clk = .low ∧
    ({ clk := .low, d1 := .high, d2 := .low, le := .low } : Pins).le = .low ∧ (0 < 65 ∧ 64 < 65 ∧ 15 < 16) := by decide

theorem witness_ResetBeforeSetOrdering : (0 < 16 ∧ 15 < 16) ∧ (0x80010001 : Sample).getLsbD (16 + 15) = true ∧
    (0x80010001 : Sample).getLsbD 15 = false := by decide

/-- The smallest and the largest period of a 4-bit timer. -/
theorem witness_ClkStartProgramsAlarm : [(1000000 : BitVec 32), 66666].all (fun r =>
    let s := { opened with cfg := { Config.vectors with timerWidth := 4 } }
    let a := (s.cfg.timerResHz * (0x10000 : BitVec 32).toNat) / (r.toNat * 65536)
    decide (s.clk.state = .none ∧ s.seq.drv = .opened ∧ r ≠ 0 ∧ (0x10000 : BitVec 32) ≠ 0 ∧ a ≠ 0 ∧
      a ≤ 2 ^ s.cfg.timerWidth - 1)) = true := by decide

/-- A timer that exists, a closed driver, and each of the four configuration failures. -/
theorem witness_ClkStartFaults :
    running.clk.state ≠ .none ∧ State.reset.seq.drv ≠ .opened ∧ opened.clk.state = .none ∧ opened.seq.drv = .opened ∧
    (1000000 * (0x10000 : BitVec 32).toNat) / ((2000000 : BitVec 32).toNat * 65536) = 0 ∧
    2 ^ 4 - 1 < (1000000 * (0x10000 : BitVec 32).toNat) / ((62500 : BitVec 32).toNat * 65536) := by decide

theorem witness_ClkStopStopsTimer : running.clk.state = .running ∧ (inClk .stopped).clk.state ≠ .running := by decide

theorem witness_ClkDisableDisablesTimer : (inClk .stopped).clk.state = .stopped ∧ running.clk.state ≠ .stopped := by decide

theorem witness_ClkDeleteDeletesTimer : ((inClk .disabled).clk.state = .disabled ∧ (inClk .disabled).seq.busy = false) ∧
    (inClk .stopped).clk.state ≠ .disabled := by decide

/-- A held CLK_DELETE, in mid-frame and at the frame's last write. -/
theorem witness_ClkDeleteHoldsDuringFrame : ∀ j ∈ [10, 64],
    let s := port (encode .clkDelete) (framing .disabled 0 j)
    s.cdc.phase = .pending ∧ s.cdc.mbox = encode .clkDelete ∧ s.err = 0 ∧ s.clk.state = .disabled ∧ s.seq.busy = true ∧
      s.seq.step = j := by decide +kernel

theorem witness_TickFeedsSequencer : running.clk.state = .running ∧ running.err = 0 ∧ running.seq.busy = false ∧
    (∃ u, exec .bufGet running = .next u) := ⟨rfl, rfl, rfl, ⟨_, rfl⟩⟩

theorem witness_TickDuringFrameFollowsModel :
    ((framing .running 0 10).seq.busy = true ∧ (framing .running 0 10).cfg.overrun = .excluded) ∧
    ((overrunFault (framing .running 0 10)).seq.busy = true ∧ (overrunFault (framing .running 0 10)).cfg.overrun = .fault ∧
      (overrunFault (framing .running 0 10)).clk.state = .running ∧ (overrunFault (framing .running 0 10)).err = 0) := by
  decide

/-- The count before the alarm, the count that raises it, and a timer that does not count. -/
theorem witness_TimerCountReloadsAtAlarm :
    (running.clk.state = .running ∧ running.err = 0 ∧ 20 + 1 ≠ running.clk.alarm ∧ 21 + 1 = running.clk.alarm ∧
      running.seq.busy = false ∧ (framing .running 0 10).seq.busy = true) ∧ (inClk .stopped).clk.state ≠ .running := by decide

/-- A stopped session whose frame goes on, and a released driver's opening. -/
theorem witness_NoTickWorkAfterStop :
    ((framing .stopped 0 10).clk.state ≠ .running ∧ Move.seq ≠ .rstN ∧
      ∃ t, perform .seq (framing .stopped 0 10) = .next t ∧ t.seq.step = 11) ∧
    (State.reset.clk.state = .none ∧ LifeInv State.reset ∧
      ∃ t, perform .apply (port (encode .drvOpen) State.reset) = .next t ∧ t.seq.trace = [.opened]) :=
  ⟨⟨by decide, by decide, _, rfl, by decide⟩, ⟨by decide, by decide, _, rfl, by decide⟩⟩

/-- A HOST without a program and one that stands at SESSION_BEGIN, with the mailbox IDLE and PENDING. -/
theorem witness_IssueFillsMailbox :
    (State.reset.cdc.phase = .idle ∧ State.reset.producer.stage = .free) ∧
    (port (encode .bufPoll) State.reset).cdc.phase ≠ .idle ∧
    ((({ stage := .opening [.drvOpen] } : Producer).awaiting = false) ∧
      ({ stage := .opening [.drvOpen] } : Producer).nextCommand 0 = some .drvOpen) := by decide

/-- A response that waits, for a HOST without and with a program, and one that does not yet. -/
theorem witness_CompleteHandsResponse :
    let done := State.reset.respond true
    (done.cdc.phase = .done ∧ done.producer.stage = .free) ∧ State.reset.cdc.phase ≠ .done ∧
    (let p := { done with producer := { stage := .poll [], awaiting := true } };
      p.producer.awaiting = true ∧ p.cdc.phase = .done) := by decide

/-- A command that completes, one that faults and one that holds. -/
theorem witness_ApplyWholeOrNotAtAll : ∀ s ∈ [port (encode .bufPoll) running, port (encode .bufReset) running,
      port (encode .clkDelete) (framing .disabled 0 10)], s.cdc.phase = .pending ∧ s.err = 0 := by decide

theorem witness_MailboxStableUntilComplete :
    ∃ t, perform (.issue 0x30000000000000000) State.reset = .next t ∧ t.cdc.mbox ≠ State.reset.cdc.mbox :=
  ⟨_, rfl, by decide⟩

/-- A SYNC and a COMPLETE that make a lagging copy RS. -/
theorem witness_RsSyncNeverRead : running.withRsSync .s1 ≠ running ∧
    (∃ t, perform .sync (running.withRsSync .s1) = .next t ∧ t.cdc.rsSync ≠ .s1) ∧
    (∃ t, perform .complete ((State.reset.respond false).withRsSync .s1) = .next t ∧ t.cdc.rsSync ≠ .s1) :=
  ⟨by decide, ⟨_, rfl, by decide⟩, ⟨_, rfl, by decide⟩⟩

/-- The idle condition, after reset and with an open driver. -/
theorem witness_PowerOnState : ∀ s ∈ [State.reset, opened],
    CdcInv s ∧ s.clk.state = .none ∧ s.seq.busy = false ∧ s.cdc.phase = .idle := by decide

theorem witness_HaltedCommandNeverCompletes :
    (halted (port (encode .bufReset) running)).err ≠ 0 ∧ (halted (port (encode .bufReset) running)).cdc.phase = .pending ∧
    Move.readStatus ≠ .rstN ∧ ∃ t, perform .readStatus (halted (port (encode .bufReset) running)) = .next t :=
  ⟨by decide, by decide, by decide, _, rfl⟩

theorem witness_FaultChangesOnlyErr :
    ∃ t, perform .apply (port (encode .bufReset) running) = .next t ∧ t.err ≠ (port (encode .bufReset) running).err :=
  ⟨_, rfl, by decide⟩

theorem witness_ErrIsSticky : (halted running).err ≠ 0 ∧ Move.sync ≠ .rstN ∧
    (∃ t, perform .sync (halted running) = .next t) ∧ (∃ t, exec .bufPoll (halted running) = .next t) ∧
    enabled .readStatus (halted running) = true := ⟨by decide, by decide, ⟨_, rfl⟩, ⟨_, rfl⟩, rfl⟩

theorem witness_HaltedBlockIsInert : (halted (framing .running 0 10)).err ≠ 0 ∧ Move.seq ≠ .rstN ∧
    ∃ t, perform .seq (halted (framing .running 0 10)) = .next t := ⟨by decide, by decide, _, rfl⟩

/-- A frame at the write that sets bit 14, the lines as its first writes leave them, meets the machine's invariant, and
its next step has a next state. -/
theorem witness_StepKeepsInvariant :
    Machine.Inv { framing .running 0x80010001 6 with schedule := [.seq] } ∧
    ∃ t, step { framing .running 0x80010001 6 with schedule := [.seq] } = .next t ∧ t.seq.step = 7 :=
  ⟨⟨by decide, by decide, by decide, by decide, by decide, by decide, by decide,
    by decide, by decide, by decide, fun _ _ => ⟨by decide, by decide, by decide, by decide⟩⟩, _, rfl, by decide⟩

theorem witness_ParametersNeverChange : ∃ t, step { running with schedule := [.tick] } = .next t ∧ t.seq.busy = true :=
  ⟨_, rfl, by decide⟩

theorem witness_TraceOnlyGrows : Move.seq ≠ .rstN ∧
    ∃ t, perform .seq (framing .running 0 10) = .next t ∧ t.seq.trace ≠ [] := ⟨by decide, _, rfl, by decide⟩

/-- An idle mailbox, one whose BUF_POLL waits for its COMPLETE, and a halted state whose ERR a read has shown. -/
theorem witness_StatusReadFields : running.cdc.phase ≠ .done ∧
    (let s := (port (encode .bufPoll) running).respond true;
      s.cdc.phase = .done ∧ ¬ (s.cdc.phase = .done ∧ opcOf s.cdc.mbox ∈ [8, 9, 10, 11]) ∧
        ¬ (s.cdc.phase = .done ∧ opcOf s.cdc.mbox ∈ [6, 7])) ∧
    { halted running with errSeen := true }.errSeen = true := by decide

theorem witness_StepRunsDecodedCommand :
    (let s := { port (encode .clkStop) running with schedule := [.apply] };
      s.cfg.valid = true ∧ s.schedule = .apply :: [] ∧ s.cdc.phase = .pending ∧ s.err = 0 ∧
        decode s.cdc.mbox = .ok .clkStop ∧ cOnly .clkStop = false) ∧
    (let s := { running with schedule := [.tick] };
      s.cfg.valid = true ∧ s.schedule = .tick :: [] ∧ s.clk.state = .running ∧ s.err = 0 ∧ s.seq.busy = false ∧
        ∃ t, exec .bufGet { s with schedule := [] } = .next t) :=
  ⟨by decide +kernel, ⟨by decide, rfl, rfl, rfl, rfl, _, rfl⟩⟩

/-- A run of SEQ steps from a frame in flight. -/
def seqRun : Nat → State
  | 0 => framing .running 0x80010001 0
  | n + 1 => if enabled .seq (seqRun n) then seqStep (seqRun n) else seqRun n

/-- It is a run, weakly fair to SEQ. -/
theorem witness_FairRunEndsFrame : IsRun (fun _ => .seq) seqRun ∧ WeaklyFair .seq (fun _ => .seq) seqRun ∧
    (seqRun 0).seq.busy = true :=
  ⟨fun n => by simp only [perform, seqRun, act]; split <;> rfl, fun n _ => ⟨n, Nat.le_refl n, rfl⟩, rfl⟩

/-- A shift of 0, the largest right shift that is not capped and one that is, a left shift by 31 and one by 32. -/
theorem witness_VolumeShiftArithmetic : volShift 16 0 = 0 ∧ volShift 24 (-23) = 31 ∧ 31 < volShift 24 (-40) ∧
    volShift 16 31 = -31 ∧ volShift 16 32 = -32 := by decide

theorem witness_FeedLoopWaitsForEdge :
    let s := { running with producer := { stage := .poll [(100, 200)] } }
    (s.producer.stage = .poll [(100, 200)] ∧ s.producer.awaiting = false ∧ s.cdc.phase = .idle) ∧
    (let t := { s.respond true with producer := { s.producer with awaiting := true } };
      t.producer.stage = .poll [(100, 200)] ∧ t.producer.awaiting = true ∧ t.cdc.phase = .done) ∧
    (let u := { port (encode .bufPoll) s with producer := { s.producer with awaiting := true } };
      u.producer.stage = .poll [(100, 200)] ∧ u.producer.awaiting = true ∧ u.cdc.phase ≠ .done) ∧
    (let d := { running with producer :=
        { program := .track 44100 0x10000 (some ⟨16, 2, []⟩), stage := .drain [(100, 200)] } };
      d.producer.program = .track 44100 0x10000 (some ⟨16, 2, []⟩) ∧ d.producer.stage = .drain [(100, 200)] ∧
        d.producer.awaiting = false ∧ d.cdc.phase = .idle ∧ d.producer.volLog ≠ [] ∧
        ({ d.producer with awaiting := true }).awaiting = true ∧ (d.respond false).cdc.phase = .done ∧
        (port (encode (.bufPut 100 200)) d).cdc.phase ≠ .done) := by decide

theorem witness_StreamOfOtherChannelCountRefused :
    startEnabled State.reset = true ∧ startEnabled { State.reset with producer := { stage := .finished } } = true ∧
    startEnabled { State.reset with producer := { program := .script (pollWait 1), stage := .script 2 } } = true ∧
    (Stream.mk 16 1 []).channelCount ≠ 2 ∧
    (Stream.mk 16 3 []).channelCount ≠ 2 := by decide

end Sys2Proof.Tests
end

/-! SUPPORT. What one command's own rule can do, once, and the statements of 10_state.md: the writers of ND, the
parameters, TRACE, the STATUS read and the state after power-on. -/

namespace Sys2Proof.Machine

/-! ### What a command's own rule can do -/

/-- The fault a command's own rule raises, the first of its checks that fails (R122, R161, R170, R201, R207 to R209,
R306). -/
def faultOf : Instr → State → Option FaultCode
  | .bufReset, s => if s.clk.state = .running then some .resetWhileActive else none
  | .drvOpen, s =>
    if s.seq.drv ≠ .closed then some .lifecycle else if pinsOk s.cfg = false then some .gpioConfig else none
  | .drvRelease, s => if s.seq.drv ≠ .opened ∨ s.clk.state ≠ .none then some .lifecycle else none
  | .clkStart rate calq, s =>
    if s.clk.state ≠ .none ∨ s.seq.drv ≠ .opened then some .lifecycle
    else if alarmOk s.cfg rate calq = false then some .timerConfig else none
  | .clkStop, s => if s.clk.state ≠ .running then some .lifecycle else none
  | .clkDisable, s => if s.clk.state ≠ .stopped then some .lifecycle else none
  | .clkDelete, s => if s.clk.state ≠ .disabled then some .lifecycle else none
  | .bufPut _ _, _ => none
  | .bufPoll, _ => none
  | .bufGet, _ => none
  | .dacWrite _ _, _ => none

/-- The entry a BUF_GET takes: the one at (RS, RP) after its swap (R126). -/
def entryToGet (s : State) : Option Sample :=
  memRead s.buf.slots (slotAddr s.cfg.bufN s.buf.swapIfExhausted.rs s.buf.swapIfExhausted.rp)

/-- What a command's own rule can make of a state: its fault, or the one change of each command. -/
inductive CmdEffect : Instr → State → State → Prop where
  /-- A check of the command fails (R302). -/
  | raised (i f s) : faultOf i s = some f → CmdEffect i s (s.raise f)
  /-- BUF_RESET (R121). -/
  | bufReset (s) : s.clk.state ≠ .running →
      CmdEffect .bufReset s (answered false { s with buf := s.buf.reset s.cfg.bufN })
  /-- BUF_PUT (R123, R124). -/
  | bufPut (c d s) :
      CmdEffect (.bufPut c d) s (answered false { s with buf := s.buf.put s.cfg.bufN (packSample c d) })
  /-- BUF_POLL (R125). -/
  | bufPoll (s) : CmdEffect .bufPoll s (answered s.buf.nd { s with buf := s.buf.poll })
  /-- BUF_GET: the entry's value, or a free one where nothing has written it (R126). -/
  | bufGet (s v n) : s.buf.swapIfExhausted.rp < s.cfg.bufN →
      (entryToGet s = some v ∧ n = s.draws ∨
        entryToGet s = none ∧ v = Config.freeSample s.draws ∧ n = s.draws + 1) →
      CmdEffect .bufGet s { s with buf := s.buf.swapIfExhausted.advance, getData := v, draws := n }
  /-- DAC_WRITE (R163). -/
  | dacWrite (c d s) :
      CmdEffect (.dacWrite c d) s { s with seq := { s.seq with data := packSample c d, step := 0, busy := true } }
  /-- DRV_OPEN (R161). -/
  | drvOpen (s) : faultOf .drvOpen s = none → CmdEffect .drvOpen s (answered false
      { s with seq := { s.seq with pins := Pins.all .low, trace := s.seq.trace ++ [.opened], drv := .opened } })
  /-- DRV_RELEASE (R170). -/
  | drvRelease (s) : faultOf .drvRelease s = none → CmdEffect .drvRelease s (answered false
      { s with seq := { s.seq with pins := Pins.all .z, trace := s.seq.trace ++ [.released], drv := .closed } })
  /-- CLK_START (R201). -/
  | clkStart (r q s) : faultOf (.clkStart r q) s = none → CmdEffect (.clkStart r q) s (answered false
      { s with clk := { state := .running, alarm := alarmTicks s.cfg r q, tcount := 0 } })
  /-- CLK_STOP (R207). -/
  | clkStop (s) : faultOf .clkStop s = none →
      CmdEffect .clkStop s (answered false { s with clk := { s.clk with state := .stopped } })
  /-- CLK_DISABLE (R208). -/
  | clkDisable (s) : faultOf .clkDisable s = none →
      CmdEffect .clkDisable s (answered false { s with clk := { s.clk with state := .disabled } })
  /-- CLK_DELETE (R209). -/
  | clkDelete (s) : faultOf .clkDelete s = none → s.seq.busy = false →
      CmdEffect .clkDelete s (answered false { s with clk := { state := .none, alarm := 0, tcount := 0 } })
  /-- CLK_DELETE during a frame holds (R209). -/
  | clkDeleteHeld (s) : faultOf .clkDelete s = none → s.seq.busy = true → CmdEffect .clkDelete s s

/-- A command's next state is one of the listed effects. -/
theorem exec_effect (i : Instr) (s t : State) (h : exec i s = .next t) : CmdEffect i s t := by
  cases i with
  | bufReset =>
    simp only [exec, execBufReset] at h
    split at h <;> cases h
    · exact .raised _ _ s (if_pos ‹_›)
    · exact .bufReset s ‹_›
  | bufPut c d => cases h; exact .bufPut c d s
  | bufPoll => cases h; exact .bufPoll s
  | bufGet =>
    obtain ⟨hrp, v, n, rfl, hv⟩ := execBufGet_next s t h
    exact .bufGet s v n hrp hv
  | dacWrite c d => cases h; exact .dacWrite c d s
  | drvOpen =>
    simp only [exec, execDrvOpen] at h
    split at h
    · cases h; exact .raised _ _ s (if_pos ‹_›)
    · split at h <;> cases h
      · exact .raised _ _ s ((if_neg ‹_›).trans (if_pos ‹_›))
      · exact .drvOpen s ((if_neg ‹_›).trans (if_neg ‹_›))
  | drvRelease =>
    simp only [exec, execDrvRelease] at h
    split at h <;> cases h
    · exact .raised _ _ s (if_pos ‹_›)
    · exact .drvRelease s (if_neg ‹_›)
  | clkStart r q =>
    simp only [exec, execClkStart] at h
    split at h
    · cases h; exact .raised _ _ s (if_pos ‹_›)
    · split at h <;> cases h
      · exact .raised _ _ s ((if_neg ‹_›).trans (if_pos ‹_›))
      · exact .clkStart r q s ((if_neg ‹_›).trans (if_neg ‹_›))
  | clkStop =>
    simp only [exec, execClkStop] at h
    split at h <;> cases h
    · exact .raised _ _ s (if_pos ‹_›)
    · exact .clkStop s (if_neg ‹_›)
  | clkDisable =>
    simp only [exec, execClkDisable] at h
    split at h <;> cases h
    · exact .raised _ _ s (if_pos ‹_›)
    · exact .clkDisable s (if_neg ‹_›)
  | clkDelete =>
    simp only [exec, execClkDelete] at h
    split at h
    · cases h; exact .raised _ _ s (if_pos ‹_›)
    · split at h <;> cases h
      · exact .clkDeleteHeld s (if_neg ‹_›) ‹_›
      · exact .clkDelete s (if_neg ‹_›) (by simpa using ‹¬ s.seq.busy = true›)

/-- BUF_RESET faults only while the clock runs (R122). -/
theorem running_of_faultOf_bufReset (f : FaultCode) (s : State) (h : faultOf .bufReset s = some f) :
    s.clk.state = .running := by
  by_contra hr
  exact absurd ((if_neg hr).symm.trans h) nofun

/-! ### Parameters and TRACE -/

/-- A list is another, or that with one entry appended: how TRACE may change in one move (R32). -/
def GrowsByAtMostOne (before after : List TraceEntry) : Prop := after = before ∨ ∃ e, after = before ++ [e]

/-- No command changes a parameter (R42). -/
theorem exec_cfg (i : Instr) (s t : State) (h : exec i s = .next t) : t.cfg = s.cfg := by
  cases exec_effect i s t h with
  | raised i f s => exact raise_cfg s f
  | _ => rfl

/-- A command appends at most one entry to TRACE: DRV_OPEN and DRV_RELEASE their own, the others none (R161, R170). -/
theorem exec_trace (i : Instr) (s t : State) (h : exec i s = .next t) :
    GrowsByAtMostOne s.seq.trace t.seq.trace := by
  cases exec_effect i s t h with
  | raised i f s => exact .inl (by rw [raise_seq])
  | drvOpen s => exact .inr ⟨_, rfl⟩
  | drvRelease s => exact .inr ⟨_, rfl⟩
  | _ => exact .inl rfl

/-- The SEQ step appends its one group write to TRACE (R162, R164). -/
theorem seqStep_trace (s : State) : (seqStep s).seq.trace =
    s.seq.trace ++ [.write (frameWrite s.seq.data s.seq.step).1 (frameWrite s.seq.data s.seq.step).2] := by
  unfold seqStep
  split <;> rfl

/-- No move changes a parameter (R42). -/
theorem effect_cfg (m : Move) (s t : State) (h : Effect m s t) : t.cfg = s.cfg := by
  cases h with
  | applied i s t _ _ _ _ _ hx => exact exec_cfg i s t hx
  | ticked m s n u _ _ _ _ hu => exact exec_cfg .bufGet { s with clk := { s.clk with tcount := n } } u hu
  | _ => simp

/-- No move but rst_n takes an entry off TRACE, and none appends two (R32). -/
theorem effect_trace (m : Move) (s t : State) (hm : m ≠ .rstN) (h : Effect m s t) :
    GrowsByAtMostOne s.seq.trace t.seq.trace := by
  cases h with
  | reset s => exact absurd rfl hm
  | applied i s t _ _ _ _ _ hx => exact exec_trace i s t hx
  | ticked m s n u _ _ _ _ hu => exact exec_trace .bufGet { s with clk := { s.clk with tcount := n } } u hu
  | wrote s => exact .inr ⟨_, seqStep_trace s⟩
  | _ => exact .inl (by simp)

/-- Settles O53: no effect of a move changes a parameter, and neither does taking the move off the schedule. -/
theorem parametersNeverChange : Obligations.ParametersNeverChange := by
  unfold Obligations.ParametersNeverChange
  intro s t h
  obtain ⟨_, hp⟩ := step_next s t h
  rcases perform_effect _ _ t hp with he | ⟨_, rfl⟩
  · exact (effect_cfg _ _ t he).trans (takeMove_cfg s)
  · exact takeMove_cfg s

/-- Settles O54, by the effects of a move; DRV_OPEN, DRV_RELEASE and the SEQ step are those that append. -/
theorem traceOnlyGrows : Obligations.TraceOnlyGrows := by
  unfold Obligations.TraceOnlyGrows
  intro m s t hm h
  rcases perform_effect m s t h with he | ⟨_, rfl⟩
  · exact effect_trace m s t hm he
  · exact .inl rfl

/-! ### The needs-data edge -/

/-- The swap sets ND, and nothing but the swap does in a BUF_GET (R24, R126). -/
theorem swap_nd (b : BufUnit) : b.swapIfExhausted.nd = (b.nd || decide (b.fl b.rs ≤ b.rp)) := by
  rcases swap_cases b with ⟨hx, h⟩ | ⟨hx, h⟩
  · simp [h, hx]
  · simp [h, hx]

/-- A move that is no APPLY, TICK, timer count or rst_n leaves the buffer alone (R24, R123 to R126). -/
theorem effect_buf (m : Move) (s t : State) (h : Effect m s t) :
    t.buf = s.buf ∨ m = .apply ∨ m = .tick ∨ m = .count ∨ m = .rstN := by
  cases h with
  | reset s => simp
  | applied i s t => simp
  | ticked m s n u hm =>
    rcases hm with ⟨rfl, _⟩ | ⟨rfl, _⟩
    · simp
    · simp
  | _ => exact .inl (by simp)

/-- Settles O19: the first part by the effects of a command, the second because the other moves leave the buffer
alone. -/
theorem needsDataEdgeWriters : Obligations.NeedsDataEdgeWriters := by
  unfold Obligations.NeedsDataEdgeWriters
  constructor
  · intro i s t h
    cases exec_effect i s t h with
    | raised i f s hf =>
      rw [raise_buf]
      cases i with
      | bufReset => simp [running_of_faultOf_bufReset f s hf]
      | bufGet => cases hf
      | bufPoll => cases hf
      | _ => rfl
    | bufReset s hr => simp [answered, BufUnit.reset, hr]
    | bufPut c d s => exact put_nd _ _ _
    | bufPoll s => exact poll_nd _
    | bufGet s v n => exact swap_nd _
    | _ => rfl
  · intro m s t h hnd
    rcases perform_effect m s t h with he | ⟨_, rfl⟩
    · exact (effect_buf m s t he).resolve_left fun hb => hnd (by rw [hb])
    · exact absurd rfl hnd

/-! ### The STATUS read -/

section StatusFields

variable (clk : BitVec 2) (drv busy pBusy rs : Bool) (err : BitVec 4)

/-- STATUS[1:0] is CLK_STATE (R43). -/
theorem statusOf_clk : (statusOf clk drv busy pBusy rs err).extractLsb' 0 2 = clk :=
  BitVec.extractLsb'_append_eq_right

/-- STATUS[2] is DRV_OPEN (R43). -/
theorem statusOf_drv : (statusOf clk drv busy pBusy rs err).getLsbD 2 = drv := by
  simp only [statusOf, BitVec.getLsbD_append]
  simp

/-- STATUS[4] is P_BUSY (R43). -/
theorem statusOf_pBusy : (statusOf clk drv busy pBusy rs err).getLsbD 4 = pBusy := by
  simp only [statusOf, BitVec.getLsbD_append]
  simp

/-- STATUS[7:6] is hardwired 0 (R43). -/
theorem statusOf_reservedLow : (statusOf clk drv busy pBusy rs err).extractLsb' 6 2 = 0 := by
  apply BitVec.eq_of_getLsbD_eq
  intro i hi
  simp only [statusOf, BitVec.getLsbD_extractLsb', BitVec.getLsbD_append]
  interval_cases i <;> simp

/-- STATUS[11:8] is ERR (R43). -/
theorem statusOf_err : (statusOf clk drv busy pBusy rs err).extractLsb' 8 4 = err := by
  apply BitVec.eq_of_getLsbD_eq
  intro i hi
  simp only [statusOf, BitVec.getLsbD_extractLsb', BitVec.getLsbD_append]
  interval_cases i <;> simp

/-- STATUS[15:12] is hardwired 0 (R43). -/
theorem statusOf_reservedHigh : (statusOf clk drv busy pBusy rs err).extractLsb' 12 4 = 0 := by
  apply BitVec.eq_of_getLsbD_eq
  intro i hi
  simp only [statusOf, BitVec.getLsbD_extractLsb', BitVec.getLsbD_append]
  interval_cases i <;> simp

end StatusFields

section StatusRead

variable (s : State)

/-- CLK_STATE is inexact exactly between the APPLY and the COMPLETE of a CLK command (R43). -/
theorem clkInexact_iff : s.clkInexact = true ↔ s.cdc.phase = .done ∧ opcOf s.cdc.mbox ∈ [8, 9, 10, 11] := by
  have hopc : ∀ o : BitVec 4, (8 ≤ o.toNat ∧ o.toNat ≤ 11) ↔ o ∈ [8, 9, 10, 11] := by decide
  simp only [State.clkInexact, Bool.and_eq_true, beq_iff_eq, decide_eq_true_eq, and_assoc, hopc]

/-- DRV_OPEN is inexact exactly between the APPLY and the COMPLETE of a DRV command (R43). -/
theorem drvInexact_iff : s.drvInexact = true ↔ s.cdc.phase = .done ∧ opcOf s.cdc.mbox ∈ [6, 7] := by
  have hopc : ∀ o : BitVec 4, (6 ≤ o.toNat ∧ o.toNat ≤ 7) ↔ o ∈ [6, 7] := by decide
  simp only [State.drvInexact, Bool.and_eq_true, beq_iff_eq, decide_eq_true_eq, and_assoc, hopc]

/-- A read shows CLK_STATE where it is exact (R43). -/
theorem statusRead_clk (h : ¬ (s.cdc.phase = .done ∧ opcOf s.cdc.mbox ∈ [8, 9, 10, 11])) :
    s.statusRead.extractLsb' 0 2 = s.clk.state.bits :=
  (statusOf_clk ..).trans (if_neg (mt (clkInexact_iff s).mp h))

/-- A read shows DRV_OPEN where it is exact (R43). -/
theorem statusRead_drv (h : ¬ (s.cdc.phase = .done ∧ opcOf s.cdc.mbox ∈ [6, 7])) :
    s.statusRead.getLsbD 2 = s.drvOpen :=
  (statusOf_drv ..).trans (if_neg (mt (drvInexact_iff s).mp h))

/-- A read shows ERR, or 0 where its free bit hides it (R43). -/
theorem statusRead_err : s.statusRead.extractLsb' 8 4 = if s.errShown then s.err else 0 :=
  statusOf_err ..

/-- A read has returned a fault where the word it gave holds it (R43). -/
theorem errShown_fault_iff : (s.errShown = true ∧ s.err ≠ 0) ↔ s.err ≠ 0 ∧ s.statusRead.extractLsb' 8 4 = s.err := by
  rw [statusRead_err]
  cases s.errShown with
  | true => simp
  | false => simpa using fun h : s.err ≠ 0 => h.symm

/-- A STATUS read leaves its word with the HOST and changes nothing of the block (R43). -/
theorem readStatus_eq : s.readStatus =
    { s with statusSeen := s.statusRead,
             errSeen := s.errSeen || decide (s.err ≠ 0 ∧ s.statusRead.extractLsb' 8 4 = s.err),
             draws := s.draws + 1 } := by
  have hseen : (s.errShown && s.err != 0) = decide (s.err ≠ 0 ∧ s.statusRead.extractLsb' 8 4 = s.err) := by
    rw [Bool.eq_iff_iff, decide_eq_true_eq, ← errShown_fault_iff, Bool.and_eq_true, bne_iff_ne]
  rw [← hseen]
  rfl

end StatusRead

/-- Settles O55, with the word the model reads: each field is the one `statusOf` packs. -/
theorem statusReadFields : Obligations.StatusReadFields := by
  unfold Obligations.StatusReadFields
  intro s
  refine ⟨s.statusRead, congrArg _ (readStatus_eq s), statusOf_reservedHigh .., statusOf_reservedLow .., ?_, ?_, ?_,
    ?_, ?_⟩
  · exact (statusOf_pBusy ..).trans (by simp [State.pBusy, bne, beq_eq_decide])
  · intro h
    rw [statusRead_clk s h]
    cases s.clk.state with
    | _ => rfl
  · intro h
    rw [statusRead_drv s h]
    rfl
  · rw [statusRead_err]
    exact (ite_eq_or_eq ..).symm
  · intro h
    rw [statusRead_err, State.errShown, h, Bool.true_or, if_pos rfl]

/-! ### Power-on and the idle condition -/

/-- Settles O51: each part of the invariant at the values of R46. -/
theorem invariantAtPowerOn : Obligations.InvariantAtPowerOn := by
  unfold Obligations.InvariantAtPowerOn
  intro c
  have hmem : MemInv (State.resetWith c) := ⟨resetWith_wf c, rfl⟩
  have hbuf : BufInv (State.resetWith c) := ⟨le_rfl, le_rfl, Nat.zero_le _, Nat.zero_le _⟩
  have hlife : LifeInv (State.resetWith c) := ⟨fun h => absurd rfl h, nofun, Nat.zero_le _⟩
  have htimer : TimerInv (State.resetWith c) := ⟨fun _ => ⟨rfl, rfl⟩, fun h => absurd rfl h⟩
  have hcdc : CdcInv (State.resetWith c) := ⟨⟨nofun, fun h => absurd rfl h⟩, fun _ _ _ => rfl⟩
  have hhost : HostInv (State.resetWith c) := ⟨nofun, fun _ _ => rfl, nofun, nofun⟩
  have herr : ErrInv (State.resetWith c) := ⟨Nat.zero_le _, nofun⟩
  have hpin : PinInv (State.resetWith c) := ⟨fun _ => rfl, nofun, nofun, nofun⟩
  exact ⟨hmem, hbuf, hlife, htimer, hcdc, hhost, herr, hpin⟩

/-- In the idle condition no agent but the HOST has an enabled step: nothing is pending, no timer runs, no frame is in
flight, and by the crossing's invariant the copy does not lag (R315, R341; log 38). -/
theorem not_enabled_of_idle (s : State) (hs : CdcInv s) (hclk : s.clk.state = .none) (hbusy : s.seq.busy = false)
    (hidle : s.cdc.phase = .idle) (m : Move) (hm : m ∈ [Move.apply, .count, .tick, .seq, .sync]) :
    enabled m s = false := by
  have hcopy : s.cdc.rsSync = s.buf.rs := hs.2 hclk hbusy hidle
  simp only [List.mem_cons, List.not_mem_nil, or_false] at hm
  rcases hm with rfl | rfl | rfl | rfl | rfl
  · simp [enabled, applyEnabled, hidle]
  · simp [enabled, countEnabled, hclk]
  · simp [enabled, tickEnabled, hclk]
  · simp [enabled, hbusy]
  · simp [enabled, hcopy]

/-- A move that is not enabled holds (R14). -/
theorem perform_of_not_enabled (m : Move) (s : State) (h : enabled m s = false) : perform m s = .next s := by
  simp [perform, h]

/-- Settles O50: the values are those of `State.resetWith`, and the state after power-on is in the idle condition. -/
theorem powerOnState : Obligations.PowerOnState := by
  unfold Obligations.PowerOnState
  refine ⟨fun c => ?_, fun s hs hclk hbusy hidle m hm => ?_, rfl⟩
  · have hcdc : CdcInv (State.resetWith c) := by
      obtain ⟨_, _, _, _, hcdc, _⟩ := invariantAtPowerOn c
      exact hcdc
    exact ⟨rfl, rfl, rfl, rfl, rfl, rfl, rfl, rfl, rfl, rfl, rfl, rfl, rfl, rfl, rfl, rfl, rfl, rfl, rfl,
      memRead_nil, not_enabled_of_idle _ hcdc rfl rfl rfl, fun _ => rfl⟩
  · have he := not_enabled_of_idle s hs hclk hbusy hidle m hm
    exact ⟨he, perform_of_not_enabled m s he⟩

end Sys2Proof.Machine

/-! SUPPORT. The statements of 20_memory.md: the entry a BUF_GET takes, the slot being read, and the round trip of the
samples put into a reset buffer. -/

namespace Sys2Proof.Machine

/-! ### The entry a BUF_GET takes -/

/-- The offset a BUF_GET reads: 0 where it swaps, else RP (R126). -/
theorem swap_rp (b : BufUnit) : b.swapIfExhausted.rp = if b.fl b.rs ≤ b.rp then 0 else b.rp := by
  rcases swap_cases b with ⟨hx, h⟩ | ⟨hx, h⟩
  · rw [h, if_pos hx]
  · rw [h, if_neg (Nat.not_le.mpr hx)]

/-- A read slot that is not exhausted is not swapped (R126). -/
theorem swap_eq_self (b : BufUnit) (h : b.rp < b.fl b.rs) : b.swapIfExhausted = b := by
  rcases swap_cases b with ⟨hx, _⟩ | ⟨_, hb⟩
  · omega
  · exact hb

/-- An exhausted read slot is swapped (R126). -/
theorem swap_eq_other (b : BufUnit) (h : b.fl b.rs ≤ b.rp) :
    b.swapIfExhausted = { b with rs := b.rs.other, rp := 0, nd := true } := by
  rcases swap_cases b with ⟨_, hb⟩ | ⟨hx, _⟩
  · exact hb
  · omega

/-- Stepping RP leaves FL alone (R126). -/
@[simp] theorem advance_fl (b : BufUnit) (k : Slot) : b.advance.fl k = b.fl k := rfl

/-- BUF_GET stops exactly where the entry it would take does not exist (R61, R126; log 9). -/
theorem execBufGet_fault_iff (s : State) :
    execBufGet s = .fault .slotOutOfRange ↔ s.cfg.bufN ≤ s.buf.swapIfExhausted.rp := by
  constructor
  · intro h
    by_contra hlt
    obtain ⟨t, ht⟩ := execBufGet_exists s (Nat.not_le.mp hlt)
    exact absurd (ht.symm.trans h) nofun
  · intro h
    exact if_neg (Nat.not_lt.mpr h)

/-- Under the buffer's invariant no slot is fuller than its capacity (R129). -/
theorem fl_le_of_bufInv (s : State) (h : BufInv s) (k : Slot) : s.buf.fl k ≤ s.cfg.bufN := by
  obtain ⟨h0, h1, _⟩ := h
  cases k with
  | s0 => exact h0
  | s1 => exact h1

/-- Under the buffer's invariant the entry a BUF_GET takes exists (R129). -/
theorem swap_rp_lt (s : State) (hn : 1 ≤ s.cfg.bufN) (h : BufInv s) : s.buf.swapIfExhausted.rp < s.cfg.bufN := by
  have hfl := fl_le_of_bufInv s h s.buf.rs
  rw [swap_rp]
  split
  · exact hn
  · omega

/-- Settles O15: the offset BUF_GET reads is RP after its swap, which the invariant keeps below BUF_N. -/
theorem bufGetStopsOnlyOutOfRange : Obligations.BufGetStopsOnlyOutOfRange := by
  unfold Obligations.BufGetStopsOnlyOutOfRange
  constructor
  · intro s
    rw [← swap_rp]
    exact execBufGet_fault_iff s
  · intro s hn hs h
    exact absurd ((execBufGet_fault_iff s).mp h) (Nat.not_le.mpr (swap_rp_lt s hn hs))

/-! ### The slot being read -/

/-- A put writes no entry of the slot being read (R68, R77). -/
theorem memRead_put_readSlot (n k : Nat) (v : Sample) (b : BufUnit) (hk : k < n) :
    memRead (b.put n v).slots (slotAddr n b.rs k) = memRead b.slots (slotAddr n b.rs k) := by
  rcases put_cases n v b with ⟨hroom, h⟩ | ⟨_, h⟩
  · rw [h, setFl_slots]
    exact memRead_memWrite_other _ _ _ _ (slotAddr_other_ne n _ k b.rs hroom hk).symm
  · rw [h]

/-- No command writes an entry of the slot being read: BUF_PUT alone writes entries, and in slot WS (R68). -/
theorem exec_memRead_readSlot (i : Instr) (s t : State) (k : Nat) (hk : k < s.cfg.bufN) (h : exec i s = .next t) :
    memRead t.buf.slots (slotAddr s.cfg.bufN s.buf.rs k) = memRead s.buf.slots (slotAddr s.cfg.bufN s.buf.rs k) := by
  cases exec_effect i s t h with
  | raised i f s => rw [raise_buf]
  | bufPut c d s => exact memRead_put_readSlot _ k _ _ hk
  | bufPoll s => simp [answered]
  | bufGet s v n => simp
  | _ => rfl

/-- Settles O21: of the moves only APPLY, a TICK and a timer count run a command, and no command writes the slot being
read. -/
theorem readSlotEntriesUntouched : Obligations.ReadSlotEntriesUntouched := by
  unfold Obligations.ReadSlotEntriesUntouched
  intro m s t k hm h hk
  rcases perform_effect m s t h with he | ⟨_, rfl⟩
  · cases he with
    | reset s => exact absurd rfl hm
    | applied i s t _ _ _ _ _ hx => exact exec_memRead_readSlot i s t k hk hx
    | ticked m s n u _ _ _ _ hu =>
      exact exec_memRead_readSlot .bufGet { s with clk := { s.clk with tcount := n } } u k hk hu
    | _ => simp
  · rfl

/-! ### The round trip -/

/-- Commands run after others run from the state those leave. -/
theorem runCmds_append (is js : List Instr) (s t : State) (h : runCmds is s = .next t) :
    runCmds (is ++ js) s = runCmds js t := by
  induction is generalizing s with
  | nil => cases h; rfl
  | cons i is ih =>
    simp only [List.cons_append, runCmds] at h ⊢
    split at h
    · exact ih _ h
    · cases h
    · cases h

/-- The buffer after BUF_RESET, a BUF_POLL and these puts: slot 0 is read from its start and holds what it held in
`old`, slot 1 holds the samples put, in order, up to its capacity (R73, R121, R123, R125). -/
structure Refilled (n : Nat) (old : Memory) (vs : List (Channel × Channel)) (b : BufUnit) : Prop where
  rs : b.rs = .s0
  rp : b.rp = 0
  fl0 : b.fl .s0 = n
  fl1 : b.fl .s1 = min vs.length n
  stale : ∀ j < n, memRead b.slots (slotAddr n .s0 j) = memRead old (slotAddr n .s0 j)
  fresh : ∀ k v, k < n → vs[k]? = some v → memRead b.slots (slotAddr n .s1 k) = some (packSample v.1 v.2)

/-- BUF_RESET and a BUF_POLL leave slot 0 full and slot 1 empty (R121, R125). -/
theorem reset_poll_refilled (n : Nat) (b : BufUnit) : Refilled n b.slots [] (b.reset n).poll where
  rs := rfl
  rp := rfl
  fl0 := rfl
  fl1 := (Nat.zero_min n).symm
  stale _ _ := rfl
  fresh _ _ _ hv := nomatch hv

/-- One more put appends its sample to slot 1, or is discarded at capacity (R123, R124). -/
theorem put_refilled (n : Nat) (old : Memory) (vs : List (Channel × Channel)) (v : Channel × Channel) (b : BufUnit)
    (hb : Refilled n old vs b) : Refilled n old (vs ++ [v]) (b.put n (packSample v.1 v.2)) := by
  have hws : b.ws = .s1 := by rw [BufUnit.ws_def, hb.rs]; rfl
  have hstale : ∀ j < n, memRead (b.put n (packSample v.1 v.2)).slots (slotAddr n .s0 j) =
      memRead old (slotAddr n .s0 j) := fun j hj => by
    rw [← hb.stale j hj, ← hb.rs]
    exact memRead_put_readSlot n j _ b hj
  have hrs := (put_rs n (packSample v.1 v.2) b).trans hb.rs
  have hrp := (put_rp n (packSample v.1 v.2) b).trans hb.rp
  rcases put_cases n (packSample v.1 v.2) b with ⟨hroom, h⟩ | ⟨hfull, h⟩
  · rw [hws, hb.fl1] at hroom
    have hlen : min vs.length n = vs.length := by omega
    rw [hws, hb.fl1, hlen] at h
    refine ⟨hrs, hrp, ?_, ?_, hstale, fun k w hk hw => ?_⟩
    · rw [h]
      exact hb.fl0
    · rw [h, setFl_fl_same, List.length_append, List.length_singleton]
      omega
    · rw [h, setFl_slots]
      rcases Nat.lt_trichotomy k vs.length with hlt | rfl | hgt
      · rw [memRead_memWrite_other _ _ _ _ (mt (slotAddr_inj n k _ .s1).mp hlt.ne)]
        exact hb.fresh k w hk (List.getElem?_append_left hlt ▸ hw)
      · cases List.getElem?_concat_length.symm.trans hw
        exact memRead_memWrite_same _ _ _
      · rw [List.getElem?_eq_none (by simpa using hgt)] at hw
        cases hw
  · rw [hws, hb.fl1] at hfull
    refine ⟨hrs, hrp, ?_, ?_, hstale, fun k w hk hw => ?_⟩
    · rw [h, hb.fl0]
    · rw [h, hb.fl1, List.length_append, List.length_singleton]
      omega
    · rw [h]
      exact hb.fresh k w hk (List.getElem?_append_left (show k < vs.length by omega) ▸ hw)

/-- Outside RUNNING a BUF_RESET and a BUF_POLL run through, and the poll returns 1 (R121, R125). -/
theorem runCmds_reset_poll (s : State) (hr : s.clk.state ≠ .running) : runCmds [.bufReset, .bufPoll] s =
    .next (answered true (answered false { s with buf := (s.buf.reset s.cfg.bufN).poll })) := by
  simp only [runCmds, exec, execBufReset, if_neg hr]
  rfl

/-- The commands that refill a reset buffer run through (R73, R352). -/
theorem runCmds_refill (s : State) (hr : s.clk.state ≠ .running) (vs : List (Channel × Channel)) :
    ∃ t, runCmds ([Instr.bufReset, .bufPoll] ++ vs.map (fun v => Instr.bufPut v.1 v.2)) s = .next t ∧
      t.cfg = s.cfg ∧ Refilled s.cfg.bufN s.buf.slots vs t.buf := by
  induction vs using List.reverseRecOn with
  | nil =>
    exact ⟨_, runCmds_reset_poll s hr, rfl, reset_poll_refilled s.cfg.bufN s.buf⟩
  | append_singleton vs v ih =>
    obtain ⟨t, ht, hcfg, hb⟩ := ih
    refine ⟨answered false { t with buf := t.buf.put s.cfg.bufN (packSample v.1 v.2) }, ?_, hcfg,
      put_refilled _ _ vs v _ hb⟩
    rw [List.map_append, ← List.append_assoc, runCmds_append _ _ s t ht, ← hcfg]
    rfl

/-- BUF_GET takes the entry after its swap and steps RP; a written entry is returned (R126). -/
theorem execBufGet_entry (s : State) (h : s.buf.swapIfExhausted.rp < s.cfg.bufN) :
    ∃ t, execBufGet s = .next t ∧ t.cfg = s.cfg ∧ t.buf = s.buf.swapIfExhausted.advance ∧
      ∀ v, entryToGet s = some v → t.getData = v := by
  obtain ⟨t, ht⟩ := execBufGet_exists s h
  obtain ⟨_, v, d, rfl, hv⟩ := execBufGet_next s t ht
  refine ⟨_, ht, rfl, rfl, fun w hw => ?_⟩
  rcases hv with ⟨hv, _⟩ | ⟨hv, _⟩
  · exact Option.some.inj (hv.symm.trans hw)
  · cases hv.symm.trans hw

/-- Gets within one slot: get number k + 1 takes the entry k places after the one the first get takes, as long as the
slot holds so many (R126). The first get may swap; b is the buffer after that. -/
theorem runCmds_gets (k : Nat) (s : State) (b : BufUnit) (hs : s.buf.swapIfExhausted = b)
    (hk : b.rp + k < b.fl b.rs) (hn : b.fl b.rs ≤ s.cfg.bufN) :
    ∃ t, runCmds (List.replicate (k + 1) .bufGet) s = .next t ∧ t.cfg = s.cfg ∧
      t.buf = { b with rp := b.rp + k + 1 } ∧
      ∀ v, memRead b.slots (slotAddr s.cfg.bufN b.rs (b.rp + k)) = some v → t.getData = v := by
  induction k generalizing s b with
  | zero =>
    obtain ⟨t, ht, hcfg, hbuf, hdata⟩ := execBufGet_entry s (by rw [hs]; omega)
    refine ⟨t, ?_, hcfg, hs ▸ hbuf, fun v hv => hdata v ?_⟩
    · simp [runCmds, exec, ht]
    · rwa [entryToGet, hs, ← swap_slots, hs]
  | succ k ih =>
    obtain ⟨t, ht, hcfg, hbuf, _⟩ := execBufGet_entry s (by rw [hs]; omega)
    rw [hs] at hbuf
    have hk' : b.advance.rp + k < b.advance.fl b.advance.rs := by
      rw [advance_rp, advance_rs, advance_fl]
      omega
    have hswap : t.buf.swapIfExhausted = b.advance := by
      rw [hbuf]
      exact swap_eq_self _ (by omega)
    obtain ⟨u, hu, hucfg, hubuf, hdata⟩ := ih t b.advance hswap hk' (hcfg ▸ hn)
    have hrp : b.rp + 1 + k = b.rp + (k + 1) := by omega
    refine ⟨u, ?_, hucfg.trans hcfg, ?_, fun v hv => hdata v ?_⟩
    · rw [List.replicate_succ]
      simpa only [runCmds, exec, ht] using hu
    · rw [hubuf]
      simp only [BufUnit.advance, hrp]
    · rw [hcfg, advance_rp, hrp]
      exact hv

section Refilled

variable {old : Memory} {vs : List (Channel × Channel)} {s : State} (hb : Refilled s.cfg.bufN old vs s.buf)
include hb

/-- Of a refilled buffer the first BUF_N gets take the entries of slot 0 in order (R352). -/
theorem runCmds_gets_stale (j : Nat) (hj : j < s.cfg.bufN) :
    ∃ t, runCmds (List.replicate (j + 1) .bufGet) s = .next t ∧ t.cfg = s.cfg ∧ t.buf = { s.buf with rp := j + 1 } ∧
      ∀ v, memRead old (slotAddr s.cfg.bufN .s0 j) = some v → t.getData = v := by
  have hfl : s.buf.fl s.buf.rs = s.cfg.bufN := by rw [hb.rs, hb.fl0]
  have hrp := hb.rp
  obtain ⟨t, ht, hcfg, hbuf, hdata⟩ :=
    runCmds_gets j s s.buf (swap_eq_self _ (by omega)) (by omega) hfl.le
  rw [hrp, Nat.zero_add] at hbuf hdata
  rw [hb.rs, hb.stale j hj] at hdata
  exact ⟨t, ht, hcfg, hbuf, hdata⟩

/-- The get after those swaps, and from there on the gets take the samples put (R73, R126). -/
theorem runCmds_gets_fresh (k : Nat) (v : Channel × Channel) (hk : k < s.cfg.bufN) (hv : vs[k]? = some v) :
    ∃ t, runCmds (List.replicate (s.cfg.bufN + (k + 1)) .bufGet) s = .next t ∧ t.getData = packSample v.1 v.2 := by
  obtain ⟨n, hn⟩ : ∃ n, s.cfg.bufN = n + 1 := ⟨s.cfg.bufN - 1, by omega⟩
  obtain ⟨t, ht, hcfg, hbuf, _⟩ := runCmds_gets_stale hb n (by omega)
  rw [← hn] at ht hbuf
  have hswap : t.buf.swapIfExhausted = { s.buf with rs := .s1, rp := 0, nd := true } := by
    rw [hbuf, swap_eq_other _ (by rw [hb.rs]; exact hb.fl0.le), hb.rs]
    rfl
  have hlen : k < vs.length := (List.getElem?_eq_some_iff.mp hv).1
  have hfl1 := hb.fl1
  obtain ⟨u, hu, _, _, hdata⟩ := runCmds_gets k t _ hswap
    (show 0 + k < s.buf.fl .s1 by omega) (show s.buf.fl .s1 ≤ t.cfg.bufN by rw [hcfg]; omega)
  rw [hcfg, Nat.zero_add] at hdata
  refine ⟨u, ?_, hdata _ (hb.fresh k v hk hv)⟩
  rw [List.replicate_add, runCmds_append _ _ s t ht]
  exact hu

end Refilled

/-- Settles O20: slot 0 is read to its end first, then the swap turns to the samples put into slot 1. -/
theorem roundTripKeepsOrder : Obligations.RoundTripKeepsOrder := by
  unfold Obligations.RoundTripKeepsOrder
  intro s vs hr
  obtain ⟨t, ht, hcfg, hb⟩ := runCmds_refill s hr vs
  rw [← hcfg] at hb ⊢
  constructor
  · intro j v hj hv
    obtain ⟨u, hu, _, _, hdata⟩ := runCmds_gets_stale hb j hj
    exact ⟨u, (runCmds_append _ _ s t ht).trans hu, hdata v hv⟩
  · intro k v hk hv
    obtain ⟨u, hu, hdata⟩ := runCmds_gets_fresh hb k v hk hv
    exact ⟨u, (runCmds_append _ _ s t ht).trans hu, hdata⟩

end Sys2Proof.Machine

/-! SUPPORT. The statements of 30_encoding.md: a word decodes by the format of its opcode's command, decoding inverts
encoding, what APPLY does with each kind of word, and the HOST's handshake at a poll and at a put. -/

namespace Sys2Proof

/-! ### Opcode and payload of a command's word -/

/-- The OPC field of a command's word (R90, R91). -/
@[simp] theorem opcOf_encode (i : Instr) : opcOf (encode i) = opcode i := opcOf_append _ _

/-- The PAYLOAD field of a command's word (R90, R92). -/
@[simp] theorem payloadOf_encode (i : Instr) : payloadOf (encode i) = payload i := payloadOf_append _ _

/-- A word with a command's opcode and payload is the command's word (R90). -/
theorem encode_eq_of_fields (i : Instr) (w : CmdWord) (ho : opcode i = opcOf w) (hp : payload i = payloadOf w) :
    encode i = w := by
  rw [encode, ho, hp, word_eq_append]

/-! ### The formats -/

/-- The opcodes that select no command (R96). -/
def ReservedOpcode (o : BitVec 4) : Prop := o.toNat = 0 ∨ 12 ≤ o.toNat

/-- The payload has a bit set that the format of the command's opcode reserves: any bit in F0, the high half in FS, none
in FC (R95). -/
def ReservedBitSet (i : Instr) (p : BitVec 64) : Prop :=
  match i with
  | .bufPut _ _ => p.extractLsb' 32 32 ≠ 0
  | .dacWrite _ _ => p.extractLsb' 32 32 ≠ 0
  | .clkStart _ _ => False
  | _ => p ≠ 0

/-- A word decoded by the format of a command's opcode, whatever operands that command itself has (R92). -/
def decodeAs (i : Instr) (w : CmdWord) : Except Reject Instr :=
  match i with
  | .bufPut _ _ => decodeFS w .bufPut
  | .dacWrite _ _ => decodeFS w .dacWrite
  | .clkStart _ _ => decodeFC w
  | i => decodeF0 w i

/-- The opcode selects the format (R91, R97). -/
theorem decode_eq_decodeAs (i : Instr) (w : CmdWord) (h : opcOf w = opcode i) : decode w = decodeAs i w := by
  unfold decode
  rw [h]
  cases i <;> rfl

/-- Every opcode is reserved or a command's (R91, R96). -/
theorem reservedOpcode_or_opcode (o : BitVec 4) : ReservedOpcode o ∨ ∃ i, opcode i = o := by
  have h : ∀ o : BitVec 4, (o.toNat = 0 ∨ 12 ≤ o.toNat) ∨
      ∃ i ∈ [Instr.bufReset, .bufPut 0 0, .bufPoll, .bufGet, .dacWrite 0 0, .drvOpen, .drvRelease, .clkStart 0 0,
        .clkStop, .clkDisable, .clkDelete], opcode i = o := by decide
  exact (h o).imp_right fun ⟨i, _, hi⟩ => ⟨i, hi⟩

/-- No command has a reserved opcode (R91, R96). -/
theorem not_reservedOpcode_opcode (i : Instr) : ¬ ReservedOpcode (opcode i) := by
  cases i <;> simp [ReservedOpcode, opcode]

/-- No command's payload has a reserved bit set (R92, R95). -/
theorem not_reservedBitSet_payload (i : Instr) : ¬ ReservedBitSet i (payload i) := by
  cases i with
  | bufPut c d => exact not_not.mpr (extract_high 0 (c ++ d))
  | dacWrite c d => exact not_not.mpr (extract_high 0 (c ++ d))
  | clkStart rate calq => exact id
  | _ => exact not_not.mpr rfl

/-- An FS payload whose reserved bits are 0 is its two channels (R92, R93). -/
theorem fs_payload_eq (p : BitVec 64) (h : p.extractLsb' 32 32 = 0) :
    (0#32 ++ (p.extractLsb' 16 16 ++ p.extractLsb' 0 16 : BitVec 32) : BitVec 64) = p := by
  have hs := sample_eq_channels (0#4 ++ p : BitVec 68)
  rw [extract_append _ _ 16 16 (by decide), extract_append _ _ 0 16 (by decide),
    extract_append _ _ 0 32 (by decide)] at hs
  conv_rhs => rw [← payload_eq_halves p, h]
  rw [hs]
  rfl

/-- A payload with no reserved bit set is that of a command of the format's opcode (R92, R95). -/
theorem exists_payload_eq (i : Instr) (p : BitVec 64) (h : ¬ ReservedBitSet i p) :
    ∃ j, opcode j = opcode i ∧ payload j = p := by
  cases i with
  | bufPut c d =>
    exact ⟨.bufPut (p.extractLsb' 16 16) (p.extractLsb' 0 16), rfl, fs_payload_eq p (not_not.mp h)⟩
  | dacWrite c d =>
    exact ⟨.dacWrite (p.extractLsb' 16 16) (p.extractLsb' 0 16), rfl, fs_payload_eq p (not_not.mp h)⟩
  | clkStart rate calq => exact ⟨.clkStart (p.extractLsb' 0 32) (p.extractLsb' 32 32), rfl, payload_eq_halves p⟩
  | _ => exact ⟨_, rfl, (not_not.mp h).symm⟩

/-! ### Decoding a word -/

/-- A reserved opcode selects no command, whatever the payload (R96). -/
theorem decode_reservedOpcode (w : CmdWord) (h : ReservedOpcode (opcOf w)) :
    decode w = .error (.reservedOpcode (opcOf w)) := by
  unfold ReservedOpcode at h
  unfold decode
  split
  case h_12 => rfl
  all_goals omega

/-- A set reserved bit makes the word no command (R95). -/
theorem decode_reservedBitSet (i : Instr) (w : CmdWord) (ho : opcode i = opcOf w)
    (h : ReservedBitSet i (payloadOf w)) : decode w = .error (.reservedPayload (opcOf w)) := by
  rw [decode_eq_decodeAs i w ho.symm]
  cases i with
  | bufPut c d => exact if_neg (payloadOf_extract w 32 32 (by decide) ▸ h)
  | dacWrite c d => exact if_neg (payloadOf_extract w 32 32 (by decide) ▸ h)
  | clkStart rate calq => exact h.elim
  | _ => exact if_neg h

/-- An FS word put together from its fields gives its channels back (R92, R93). -/
theorem decodeFS_append (o : BitVec 4) (c d : Channel) (mk : Channel → Channel → Instr) :
    decodeFS (o ++ (0#32 ++ (c ++ d : BitVec 32) : BitVec 64) : BitVec 68) mk = .ok (mk c d) := by
  rw [decodeFS_ok, extract_append _ _ 32 32 (by decide), extract_append _ _ 16 16 (by decide),
    extract_append _ _ 0 16 (by decide), extract_ch1, extract_ch2]
  exact ⟨extract_high _ _, rfl⟩

/-- An FC word put together from its fields gives its rate and its ratio back (R92, R94). -/
theorem decodeFC_append (o : BitVec 4) (rate calq : BitVec 32) :
    decodeFC (o ++ (calq ++ rate : BitVec 64) : BitVec 68) = .ok (.clkStart rate calq) := by
  rw [decodeFC, extract_append _ _ 0 32 (by decide), extract_append _ _ 32 32 (by decide), extract_low, extract_high]

/-- Decoding inverts encoding: the opcode selects the format, which takes each operand from its field (R90 to R94). -/
@[simp] theorem decode_encode (i : Instr) : decode (encode i) = .ok i := by
  rw [decode_eq_decodeAs i _ (opcOf_encode i)]
  cases i with
  | bufPut c d => exact decodeFS_append _ c d _
  | dacWrite c d => exact decodeFS_append _ c d _
  | clkStart rate calq => exact decodeFC_append _ rate calq
  | _ => exact (decodeF0_ok _ _ _).mpr ⟨payloadOf_encode _, rfl⟩

/-- Everything a word can be: one with a reserved opcode, one with a reserved bit of its opcode's format set, or the
word of a command (R95 to R97). -/
theorem word_cases (w : CmdWord) :
    ReservedOpcode (opcOf w) ∨ (∃ i, opcode i = opcOf w ∧ ReservedBitSet i (payloadOf w)) ∨ ∃ i, encode i = w := by
  rcases reservedOpcode_or_opcode (opcOf w) with ho | ⟨i, ho⟩
  · exact .inl ho
  · by_cases hr : ReservedBitSet i (payloadOf w)
    · exact .inr (.inl ⟨i, ho, hr⟩)
    · obtain ⟨j, hj, hp⟩ := exists_payload_eq i _ hr
      exact .inr (.inr ⟨j, encode_eq_of_fields j w (hj.trans ho) hp⟩)

/-- Which payload bits are reserved, by the opcode's number (R91, R95). -/
theorem reservedBitSet_iff (i : Instr) (w : CmdWord) (ho : opcode i = opcOf w) :
    ReservedBitSet i (payloadOf w) ↔
      ((opcOf w).toNat = 2 ∨ (opcOf w).toNat = 5) ∧ (payloadOf w).extractLsb' 32 32 ≠ 0 ∨
        ((opcOf w).toNat ≠ 2 ∧ (opcOf w).toNat ≠ 5 ∧ (opcOf w).toNat ≠ 8) ∧ payloadOf w ≠ 0 := by
  rw [← ho]
  cases i <;> simp [ReservedBitSet, opcode]

/-- A word whose opcode's format reserves a bit that is set is no command's word, so it decodes to none (R95). -/
theorem decode_error_of_reservedBit (w : CmdWord)
    (h : ((opcOf w).toNat = 2 ∨ (opcOf w).toNat = 5) ∧ (payloadOf w).extractLsb' 32 32 ≠ 0 ∨
      ((opcOf w).toNat ≠ 2 ∧ (opcOf w).toNat ≠ 5 ∧ (opcOf w).toNat ≠ 8) ∧ payloadOf w ≠ 0) :
    ∃ r, decode w = .error r := by
  rcases word_cases w with ho | ⟨i, ho, hr⟩ | ⟨i, rfl⟩
  · exact ⟨_, decode_reservedOpcode w ho⟩
  · exact ⟨_, decode_reservedBitSet i w ho hr⟩
  · have hr := (reservedBitSet_iff i _ (opcOf_encode i).symm).mpr h
    rw [payloadOf_encode] at hr
    exact absurd hr (not_reservedBitSet_payload i)

/-- Settles O1: `decode_encode`. -/
theorem decodeOfEncode : Obligations.DecodeOfEncode := decode_encode

/-- Settles O2: a word that is no command's decodes to none, and one that is decodes to that command alone. -/
theorem encodeOfDecode : Obligations.EncodeOfDecode := by
  unfold Obligations.EncodeOfDecode
  intro w i h
  rcases word_cases w with ho | ⟨j, ho, hr⟩ | ⟨j, rfl⟩
  · exact absurd ((decode_reservedOpcode w ho).symm.trans h) nofun
  · exact absurd ((decode_reservedBitSet j w ho hr).symm.trans h) nofun
  · rw [Except.ok.inj ((decode_encode j).symm.trans h)]

/-- Settles O3: the words are computed, and each decodes to its command because decoding inverts encoding. -/
theorem workedCommandWords : Obligations.WorkedCommandWords := by
  unfold Obligations.WorkedCommandWords
  intro p hp
  have hw : encode p.1 = p.2 := by
    revert p
    decide
  exact ⟨hw, hw ▸ decode_encode p.1⟩

/-- Settles O4: with the reserved bits 0 the FS format takes the two channels, and together they are the sample field. -/
theorem sampleOperandAsGiven : Obligations.SampleOperandAsGiven := by
  unfold Obligations.SampleOperandAsGiven
  refine ⟨fun w ho hr => ?_, fun w ho hr => ?_, fun c => ⟨c.le_toInt, Int.le_of_lt_add_one c.toInt_lt⟩⟩
  · exact ⟨_, _, (decode_eq_decodeAs (.bufPut 0 0) w ho).trans (if_pos hr), rfl, rfl, sample_eq_channels w⟩
  · exact ⟨_, _, (decode_eq_decodeAs (.dacWrite 0 0) w ho).trans (if_pos hr), rfl, rfl, sample_eq_channels w⟩

namespace Machine

/-! ### APPLY of each kind of word -/

/-- An enabled APPLY performs the word in the mailbox (R243). -/
theorem perform_apply (s : State) (hp : s.cdc.phase = .pending) (h0 : s.err = 0) (hh : held s = false) :
    perform .apply s = applyWord s.cdc.mbox s := by
  simp [perform, enabled, applyEnabled, act, apply, hp, h0, hh]

/-- A fault of a block that is not halted sets ERR and changes nothing else (R302). -/
theorem raise_of_err_zero (f : FaultCode) (s : State) (h0 : s.err = 0) : s.raise f = { s with err := f.code } :=
  if_pos h0

/-- APPLY of a word that is no command sets ERR to ILLEGAL_CMD and changes nothing else (R95, R96). -/
theorem perform_apply_of_error (s : State) (hp : s.cdc.phase = .pending) (h0 : s.err = 0) (r : Reject)
    (hd : decode s.cdc.mbox = .error r) : perform .apply s = .next { s with err := 1 } := by
  have hh : held s = false := by simp [held, hd]
  simp only [perform_apply s hp h0 hh, applyWord, hd, raise_of_err_zero _ s h0, FaultCode.code]

/-- APPLY of a C-only command sets ERR to PORT_VIOLATION and changes nothing else (R98). -/
theorem perform_apply_of_cOnly (s : State) (hp : s.cdc.phase = .pending) (h0 : s.err = 0) (i : Instr)
    (hd : decode s.cdc.mbox = .ok i) (hc : cOnly i = true) : perform .apply s = .next { s with err := 2 } := by
  have hi : i ≠ .clkDelete := by
    rintro rfl
    cases hc
  have hh : held s = false := by simp [held, hd, hi]
  simp only [perform_apply s hp h0 hh, applyWord, hd, hc, if_true, raise_of_err_zero _ s h0, FaultCode.code]

/-- APPLY of a P-port command that is not held is the command's own rule (R97, R243). -/
theorem perform_apply_of_port (s : State) (hp : s.cdc.phase = .pending) (h0 : s.err = 0) (hh : held s = false)
    (i : Instr) (hd : decode s.cdc.mbox = .ok i) (hc : cOnly i = false) : perform .apply s = exec i s := by
  simp [perform_apply s hp h0 hh, applyWord, hd, hc]

/-- A P-port command's own rule has a next state. -/
theorem exec_port_exists (i : Instr) (s : State) (hc : cOnly i = false) : ∃ t, exec i s = .next t := by
  rcases exec_port i s hc with ⟨v, b, q, c, h⟩ | ⟨f, h⟩ | ⟨_, _, h⟩
  · exact ⟨_, h⟩
  · exact ⟨_, h⟩
  · exact ⟨_, h⟩

/-- The C-only commands are those of opcodes 0x4 and 0x5 (R91). -/
theorem cOnly_iff_opcode (i : Instr) : cOnly i = true ↔ (opcode i).toNat = 4 ∨ (opcode i).toNat = 5 := by
  cases i <;> simp [cOnly, opcode]

/-- Settles O5: a reserved opcode decodes to no command. -/
theorem reservedOpcodeFaults : Obligations.ReservedOpcodeFaults := by
  unfold Obligations.ReservedOpcodeFaults
  intro s hp h0 ho
  refine perform_apply_of_error s hp h0 _ (decode_reservedOpcode _ (ho.imp_left fun h => ?_))
  rw [h]
  rfl

/-- Settles O6: the opcodes listed are those of F0 and of FS, and a word with a reserved bit set decodes to none. -/
theorem reservedPayloadFaults : Obligations.ReservedPayloadFaults := by
  unfold Obligations.ReservedPayloadFaults
  have hf0 : ∀ o ∈ ([1, 3, 4, 6, 7, 9, 10, 11] : List (BitVec 4)), o.toNat ≠ 2 ∧ o.toNat ≠ 5 ∧ o.toNat ≠ 8 := by decide
  have hfs : ∀ o ∈ ([2, 5] : List (BitVec 4)), o.toNat = 2 ∨ o.toNat = 5 := by decide
  constructor
  · intro s hp h0 hr
    obtain ⟨r, hd⟩ := decode_error_of_reservedBit s.cdc.mbox
      (hr.symm.imp (And.imp_left (hfs _)) (And.imp_left (hf0 _)))
    exact perform_apply_of_error s hp h0 r hd
  · intro w ho
    exact ⟨_, _, decode_eq_decodeAs (.clkStart 0 0) w ho⟩

/-- Settles O7: each of the two words decodes to its command, which is C-only. -/
theorem consumerCommandOnPortFaults : Obligations.ConsumerCommandOnPortFaults := by
  unfold Obligations.ConsumerCommandOnPortFaults
  intro s i hp h0 hm hi
  refine perform_apply_of_cOnly s hp h0 i (hm ▸ decode_encode i) ?_
  rcases hi with rfl | ⟨c, d, rfl⟩
  · rfl
  · rfl

/-- Settles O8: the words of the first two branches decode to no command; any other is a command's, which goes by its
port. -/
theorem applyDecodesInOrder : Obligations.ApplyDecodesInOrder := by
  unfold Obligations.ApplyDecodesInOrder
  intro s hp h0 hh
  dsimp only
  split
  next ho => exact perform_apply_of_error s hp h0 _ (decode_reservedOpcode _ ho)
  next hopc =>
    split
    next hr =>
      obtain ⟨r, hd⟩ := decode_error_of_reservedBit s.cdc.mbox hr
      exact perform_apply_of_error s hp h0 r hd
    next hbit =>
      obtain ⟨i, hi⟩ : ∃ i, encode i = s.cdc.mbox := by
        rcases word_cases s.cdc.mbox with ho | ⟨i, ho, hr⟩ | hi
        · exact absurd ho hopc
        · exact absurd ((reservedBitSet_iff i _ ho).mp hr) hbit
        · exact hi
      have hd : decode s.cdc.mbox = .ok i := hi ▸ decode_encode i
      have ho : opcOf s.cdc.mbox = opcode i := hi ▸ opcOf_encode i
      rw [ho]
      split
      next hc => exact perform_apply_of_cOnly s hp h0 i hd ((cOnly_iff_opcode i).mpr hc)
      next hc =>
        have hc : cOnly i = false := Bool.eq_false_iff.mpr (mt (cOnly_iff_opcode i).mp hc)
        obtain ⟨t, ht⟩ := exec_port_exists i s hc
        exact ⟨i, t, hd, rfl, (perform_apply_of_port s hp h0 hh i hd hc).trans ht, ht⟩

/-! ### The HOST at a poll and at a put -/

/-- A read of a signal gives one of the values written so far (R271). -/
theorem pickWritten_mem {α : Type} (latest : α) (log : List α) (k : Nat) (h : log ≠ []) :
    pickWritten latest log k ∈ log := by
  have hlt : Config.freePick k % log.length < log.length := Nat.mod_lt _ (List.length_pos_iff.mpr h)
  rw [pickWritten, List.getD_eq_getElem _ _ hlt]
  exact List.getElem_mem hlt

/-- A HOST whose next step is a command issues it where the mailbox is free (R242). -/
theorem perform_host_issue (s : State) (i : Instr) (ha : s.producer.awaiting = false) (hp : s.cdc.phase = .idle)
    (hc : s.producer.nextCommand s.draws = some i) : perform .host s = .next (hostIssue i s) := by
  simp [perform, enabled, hostEnabled, act, hostStep, ha, hp, hc]

/-- A HOST takes the response of its outstanding command once it is there (R244). -/
theorem perform_host_complete (s : State) (ha : s.producer.awaiting = true) (hp : s.cdc.phase = .done) :
    perform .host s = .next (hostComplete s) := by
  simp [perform, enabled, hostEnabled, act, hostStep, ha, hp]

/-- Until its outstanding command is answered a HOST holds (R245). -/
theorem perform_host_waits (s : State) (ha : s.producer.awaiting = true) (hp : s.cdc.phase ≠ .done) :
    perform .host s = .next s := by
  simp [perform, enabled, hostEnabled, ha, hp]

/-- At the wait before a block the HOST's next command is BUF_POLL (R104, R273). -/
theorem nextCommand_poll (p : Producer) (k : Nat) (block : List (Raw × Raw)) (h : p.stage = .poll block) :
    p.nextCommand k = some .bufPoll := by
  simp [Producer.nextCommand, h]

/-- At a pair of raw samples of a track the HOST's next command is the put of the two, each shifted (R273, R274). -/
theorem nextCommand_drain (p : Producer) (k : Nat) (r : Raw × Raw) (rest : List (Raw × Raw)) (rate calq : BitVec 32)
    (st : Stream) (hg : p.program = .track rate calq (some st)) (h : p.stage = .drain (r :: rest)) :
    p.nextCommand k =
      some (.bufPut (vshift st.bitDepth (readVol p k) r.1) (vshift st.bitDepth (readVol p (k + 1)) r.2)) := by
  simp [Producer.nextCommand, Producer.bitDepth, h, hg]

/-- Settles O59, by the HOST's step at an issue, at a response and while it waits. -/
theorem feedLoopWaitsForEdge : Obligations.FeedLoopWaitsForEdge := by
  unfold Obligations.FeedLoopWaitsForEdge
  constructor
  · intro s block hs
    refine ⟨fun ha hp => ?_, fun ha hp => ?_, perform_host_waits s⟩
    · exact ⟨_, perform_host_issue s _ ha hp (nextCommand_poll _ _ block hs), rfl, rfl, rfl, hs⟩
    · refine ⟨_, perform_host_complete s ha hp, by simp, by simp, ?_⟩
      simp [hs, Stage.answered]
  · intro s r rest rate calq st hg hs
    refine ⟨fun ha hp hv => ?_, fun ha hp => ?_, perform_host_waits s⟩
    · exact ⟨_, _, pickWritten_mem 0 _ s.draws hv, _, pickWritten_mem 0 _ (s.draws + 1) hv,
        perform_host_issue s _ ha hp (nextCommand_drain _ _ r rest rate calq st hg hs), rfl, rfl, rfl, hs⟩
    · refine ⟨_, perform_host_complete s ha hp, by simp, by simp, ?_⟩
      simp [hs, Stage.answered]

end Machine
end Sys2Proof

/-! SUPPORT. The statements of 40_buffer_ops.md: what each buffer command does, that BUF_GET always produces a sample,
the buffer's invariants, and the invariant of the whole machine. -/

namespace Sys2Proof.Machine

/-! ### BUF_RESET, BUF_PUT and BUF_POLL -/

/-- BUF_RESET outside RUNNING (R121). -/
theorem execBufReset_of_not_running (s : State) (hr : s.clk.state ≠ .running) :
    execBufReset s = .next (answered false { s with buf := s.buf.reset s.cfg.bufN }) :=
  if_neg hr

/-- Settles O9: the initial buffer is that of `BufUnit.reset`. -/
theorem bufResetRestoresInitialBuffer : Obligations.BufResetRestoresInitialBuffer := by
  unfold Obligations.BufResetRestoresInitialBuffer
  exact execBufReset_of_not_running

/-- Settles O10, by the one check BUF_RESET makes. -/
theorem bufResetWhileRunningFaults : Obligations.BufResetWhileRunningFaults := by
  unfold Obligations.BufResetWhileRunningFaults
  refine fun s => ⟨fun hr => ?_, fun hr => ⟨_, execBufReset_of_not_running s hr, rfl, rfl⟩⟩
  exact (if_pos hr).trans (congrArg _ (raise_eq_faulted _ s))

/-- Settles O12: a put into a full slot leaves the buffer as it is. -/
theorem bufPutAtCapacityDiscards : Obligations.BufPutAtCapacityDiscards := by
  unfold Obligations.BufPutAtCapacityDiscards
  intro s c d hfull
  have hput : s.buf.put s.cfg.bufN (packSample c d) = s.buf := if_neg (Nat.not_lt.mpr hfull)
  simp only [exec, execBufPut, hput, respond_eq_answered]

/-- A put into a slot with room, field by field: the slot it counts up is the one not being read (R123). -/
theorem put_of_room (n : Nat) (v : Sample) (b : BufUnit) (hroom : b.fl b.rs.other < n) : b.put n v =
    { b with
      slots := memWrite b.slots (slotAddr n b.rs.other (b.fl b.rs.other)) v
      fl0 := if b.rs = .s1 then b.fl0 + 1 else b.fl0
      fl1 := if b.rs = .s0 then b.fl1 + 1 else b.fl1 } := by
  refine (if_pos hroom).trans ?_
  rw [BufUnit.ws_def]
  cases b.rs with
  | s0 => rfl
  | s1 => rfl

/-- Settles O11: the new memory is that of one write at (WS, FL[WS]). -/
theorem bufPutStoresAtWritePosition : Obligations.BufPutStoresAtWritePosition := by
  unfold Obligations.BufPutStoresAtWritePosition
  intro s c d hroom
  refine ⟨_, ?_, fun a => memRead_memWrite _ _ a _⟩
  simp only [exec, execBufPut, put_of_room _ _ _ hroom, respond_eq_answered]

/-- Settles O13, by the two cases of a poll; the slot it empties is the one not being read. -/
theorem bufPollConsumesEdge : Obligations.BufPollConsumesEdge := by
  unfold Obligations.BufPollConsumesEdge
  intro s
  simp only [exec, execBufPoll, respond_eq_answered]
  rcases poll_cases s.buf with ⟨hnd, h⟩ | ⟨hnd, h⟩
  · refine ⟨fun _ => ?_, fun h0 => absurd (hnd.symm.trans h0) nofun⟩
    rw [h, hnd, BufUnit.ws_def]
    cases s.buf.rs with
    | s0 => rfl
    | s1 => rfl
  · refine ⟨fun h1 => absurd (hnd.symm.trans h1) nofun, fun _ => ?_⟩
    rw [h, hnd]

/-! ### BUF_GET and the TICK -/

/-- The buffer after the swap of a BUF_GET, field by field (R126). -/
theorem swap_eq (b : BufUnit) : b.swapIfExhausted =
    { b with
      rs := if b.fl b.rs ≤ b.rp then b.rs.other else b.rs
      rp := if b.fl b.rs ≤ b.rp then 0 else b.rp
      nd := b.nd || decide (b.fl b.rs ≤ b.rp) } := by
  rcases swap_cases b with ⟨hx, h⟩ | ⟨hx, h⟩
  · simp [h, hx]
  · simp [h, Nat.not_le.mpr hx]

/-- BUF_GET's whole next state where its entry exists (R126). -/
theorem execBufGet_eq (s : State) (h : s.buf.swapIfExhausted.rp < s.cfg.bufN) : execBufGet s = .next
    { s with
      buf := s.buf.swapIfExhausted.advance
      getData := (entryToGet s).getD (Config.freeSample s.draws)
      draws := if (entryToGet s).isSome then s.draws else s.draws + 1 } := by
  obtain ⟨t, ht⟩ := execBufGet_exists s h
  obtain ⟨_, v, n, rfl, hv⟩ := execBufGet_next s t ht
  rw [ht]
  rcases hv with ⟨hv, rfl⟩ | ⟨hv, rfl, rfl⟩
  · simp [entryToGet, hv]
  · simp [entryToGet, hv]

/-- Settles O14: BUF_GET's next state, with the swap written out. -/
theorem bufGetTakesNextSample : Obligations.BufGetTakesNextSample := by
  unfold Obligations.BufGetTakesNextSample
  intro s
  simp only [decide_eq_true_eq]
  intro hrp
  rw [← swap_rp] at hrp
  simp only [exec, execBufGet_eq s hrp, entryToGet, swap_eq, BufUnit.advance]

/-- BUF_GET of an exhausted read slot takes entry 0 of the other slot and leaves RP at 1 (R126). -/
theorem execBufGet_of_exhausted (s : State) (hn : 1 ≤ s.cfg.bufN) (hx : s.buf.fl s.buf.rs ≤ s.buf.rp) :
    ∃ t, execBufGet s = .next t ∧
      t.getData = (memRead s.buf.slots (slotAddr s.cfg.bufN s.buf.rs.other 0)).getD (Config.freeSample s.draws) ∧
      t.buf = { s.buf with rs := s.buf.rs.other, rp := 1, nd := true } ∧
      t.err = s.err ∧ t.cdc = s.cdc ∧ t.cfg = s.cfg := by
  have hswap := swap_eq_other s.buf hx
  have hget := execBufGet_eq s (by rw [hswap]; exact hn)
  rw [entryToGet, hswap] at hget
  exact ⟨_, hget, rfl, rfl, rfl, rfl, rfl⟩

/-- Settles O17: both gets swap, the second because the first leaves RP = 1 above FL = 0. -/
theorem underrunReplaysStaleEntry : Obligations.UnderrunReplaysStaleEntry := by
  unfold Obligations.UnderrunReplaysStaleEntry
  intro s hn hx hempty
  obtain ⟨t, ht, hdata, hbuf, herr, hcdc, hcfg⟩ := execBufGet_of_exhausted s hn hx
  have hfl : t.buf.fl t.buf.rs = 0 := by
    rw [hbuf, ← hempty]
    cases s.buf.rs with
    | _ => rfl
  have hexhausted : t.buf.fl t.buf.rs ≤ t.buf.rp := hfl.trans_le (Nat.zero_le _)
  obtain ⟨u, hu, _, hubuf, _⟩ := execBufGet_of_exhausted t (hcfg ▸ hn) hexhausted
  rw [hbuf, Slot.other_other] at hubuf
  exact ⟨t, u, ht, hdata, hbuf, hfl, herr, hcdc, hu, hubuf⟩

/-- An admitted TICK outside a frame is BUF_GET's next state with a frame of its sample started (R205). -/
theorem perform_tick (s u : State) (he : enabled .tick s = true) (hb : s.seq.busy = false)
    (hu : execBufGet s = .next u) :
    perform .tick s = .next { u with seq := { u.seq with data := u.getData, step := 0, busy := true } } := by
  simp [perform, he, act, tick, hb, hu, execDacWrite]

/-- Settles O16: by the buffer's invariant the entry BUF_GET takes exists. -/
theorem everyTickStartsFrame : Obligations.EveryTickStartsFrame := by
  unfold Obligations.EveryTickStartsFrame
  intro s hn hs
  obtain ⟨u, hu⟩ := execBufGet_exists s (swap_rp_lt s hn hs)
  exact ⟨⟨u, hu⟩, fun he hb => ⟨_, perform_tick s u he hb hu, rfl, rfl, rfl⟩⟩

/-! ### The invariants of the buffer -/

/-- The buffer's invariant reads the parameters and the buffer only. -/
theorem bufInv_of_eq {s t : State} (hs : BufInv s) (hcfg : t.cfg = s.cfg) (hbuf : t.buf = s.buf) : BufInv t := by
  rwa [BufInv, hcfg, hbuf]

/-- The buffer's invariant in terms of FL[s], RS and RP (R129). -/
theorem bufInv_iff (s : State) : BufInv s ↔
    (∀ k, s.buf.fl k ≤ s.cfg.bufN) ∧ s.buf.rp ≤ s.cfg.bufN ∧ s.buf.rp ≤ max (s.buf.fl s.buf.rs) 1 := by
  constructor
  · intro h
    obtain ⟨_, _, hrp, hmax⟩ := id h
    exact ⟨fl_le_of_bufInv s h, hrp, hmax⟩
  · rintro ⟨hfl, hrp, hmax⟩
    exact ⟨hfl .s0, hfl .s1, hrp, hmax⟩

/-- A change that leaves RS, RP and FL[RS] alone and fills no slot above its capacity keeps the buffer's invariant
(R129). -/
theorem bufInv_of_fl {s t : State} (hs : BufInv s) (hcfg : t.cfg = s.cfg) (hrs : t.buf.rs = s.buf.rs)
    (hrp : t.buf.rp = s.buf.rp) (hread : t.buf.fl s.buf.rs = s.buf.fl s.buf.rs)
    (hfl : ∀ k, t.buf.fl k ≤ s.cfg.bufN) : BufInv t := by
  rw [bufInv_iff] at hs ⊢
  obtain ⟨_, hn, hmax⟩ := hs
  rw [hcfg, hrs, hrp, hread]
  exact ⟨hfl, hn, hmax⟩

/-- A put leaves FL of the slot being read alone (R123). -/
theorem put_fl_rs (n : Nat) (v : Sample) (b : BufUnit) : (b.put n v).fl b.rs = b.fl b.rs := by
  rcases put_cases n v b with ⟨_, h⟩ | ⟨_, h⟩
  · rw [h]
    exact setFl_fl_other _ _ _ _ (Slot.ne_other _)
  · rw [h]

/-- A put fills no slot above the capacity (R124). -/
theorem put_fl_le (n : Nat) (v : Sample) (b : BufUnit) (k : Slot) (hk : b.fl k ≤ n) : (b.put n v).fl k ≤ n := by
  rcases put_cases n v b with ⟨hroom, h⟩ | ⟨_, h⟩
  · rw [h]
    by_cases hws : k = b.ws
    · rwa [hws, setFl_fl_same]
    · rw [setFl_fl_other _ _ _ _ hws]
      exact hk
  · rwa [h]

/-- A poll leaves FL of the slot being read alone (R125). -/
theorem poll_fl_rs (b : BufUnit) : b.poll.fl b.rs = b.fl b.rs := by
  rcases poll_cases b with ⟨_, h⟩ | ⟨_, h⟩
  · rw [h]
    exact setFl_fl_other _ _ _ _ (Slot.ne_other _)
  · rw [h]

/-- A poll fills no slot (R125). -/
theorem poll_fl_le (b : BufUnit) (k : Slot) : b.poll.fl k ≤ b.fl k := by
  rcases poll_cases b with ⟨_, h⟩ | ⟨_, h⟩
  · rw [h]
    by_cases hws : k = b.ws
    · rw [hws, setFl_fl_same]
      exact Nat.zero_le _
    · rw [setFl_fl_other _ _ _ _ hws]
      exact le_rfl
  · rw [h]

/-- After a BUF_GET RP is at most FL[RS], or 1 where it swapped into an empty slot (R126, R127). -/
theorem advance_swap_rp_le (b : BufUnit) :
    b.swapIfExhausted.advance.rp ≤ max (b.swapIfExhausted.advance.fl b.swapIfExhausted.advance.rs) 1 := by
  rcases swap_cases b with ⟨_, h⟩ | ⟨hx, h⟩
  · rw [h]
    exact le_max_right _ _
  · rw [h]
    exact le_max_of_le_left hx

/-- Every command keeps the buffer's invariant (R129). -/
theorem exec_bufInv (i : Instr) (s t : State) (hs : BufInv s) (h : exec i s = .next t) : BufInv t := by
  have hfl := fl_le_of_bufInv s hs
  cases exec_effect i s t h with
  | raised i f s => exact bufInv_of_eq hs (raise_cfg s f) (raise_buf s f)
  | bufReset s => exact ⟨le_rfl, le_rfl, Nat.zero_le _, Nat.zero_le _⟩
  | bufPut c d s =>
    exact bufInv_of_fl hs rfl (put_rs ..) (put_rp ..) (put_fl_rs ..) fun k => put_fl_le _ _ _ k (hfl k)
  | bufPoll s =>
    exact bufInv_of_fl hs rfl (poll_rs _) (poll_rp _) (poll_fl_rs _) fun k => (poll_fl_le _ k).trans (hfl k)
  | bufGet s v n hrp =>
    exact (bufInv_iff _).mpr ⟨fun k => (swap_fl s.buf k).trans_le (hfl k), hrp, advance_swap_rp_le s.buf⟩
  | _ => exact hs

/-- Every effect of a move keeps the buffer's invariant (R129). -/
theorem effect_bufInv (m : Move) (s t : State) (h : Effect m s t) (hs : BufInv s) : BufInv t := by
  cases h with
  | reset s =>
    obtain ⟨_, hbuf, _⟩ := invariantAtPowerOn s.cfg
    exact hbuf
  | applied i s t _ _ _ _ _ hx => exact exec_bufInv i s t hs hx
  | ticked m s n u _ _ _ _ hu => exact exec_bufInv .bufGet { s with clk := { s.clk with tcount := n } } u hs hu
  | _ => exact bufInv_of_eq hs (by simp) (by simp)

/-- A step keeps what every effect of a move and the taking of a move off the schedule keep (R11). -/
theorem step_keeps (P : State → Prop) (htake : ∀ s, P s → P (takeMove s))
    (heffect : ∀ m s t, Effect m s t → P s → P t) (s t : State) (hs : P s) (h : step s = .next t) : P t := by
  obtain ⟨_, hp⟩ := step_next s t h
  rcases perform_effect _ _ t hp with he | ⟨_, rfl⟩
  · exact heffect _ _ t he (htake s hs)
  · exact htake s hs

/-- No command but BUF_GET and BUF_RESET writes RS or RP (R129). -/
theorem exec_rs_rp (i : Instr) (s t : State) (hget : i ≠ .bufGet) (hreset : i ≠ .bufReset)
    (h : exec i s = .next t) : t.buf.rs = s.buf.rs ∧ t.buf.rp = s.buf.rp := by
  cases exec_effect i s t h with
  | raised i f s => simp
  | bufReset s => exact absurd rfl hreset
  | bufPut c d s => exact ⟨put_rs .., put_rp ..⟩
  | bufPoll s => exact ⟨poll_rs _, poll_rp _⟩
  | bufGet s v n => exact absurd rfl hget
  | _ => exact ⟨rfl, rfl⟩

/-- Settles O18: (I2) and (I3) by the effects of a move, (I4) by those of a command. -/
theorem bufferInvariantsHold : Obligations.BufferInvariantsHold := by
  unfold Obligations.BufferInvariantsHold
  refine ⟨fun c => ?_, ?_, fun s => ⟨rfl, ?_⟩, exec_rs_rp⟩
  · obtain ⟨_, hbuf, _⟩ := invariantAtPowerOn c
    exact hbuf
  · exact step_keeps _ (fun s hs => bufInv_of_eq hs (takeMove_cfg s) (takeMove_buf s)) effect_bufInv
  · rw [BufUnit.ws_def]
    cases s.buf.rs with
    | _ => rfl

/-! ### The slot memory -/

/-- The invariant of the slot memory reads BUF_N and the entries only. -/
theorem memInv_of_eq {s t : State} (hs : MemInv s) (hcfg : t.cfg = s.cfg) (hslots : t.buf.slots = s.buf.slots) :
    MemInv t := by
  rwa [MemInv, hcfg, hslots]

/-- A put keeps the slot memory's invariant: it writes an entry that exists (R61, R123). -/
theorem put_memInv (s : State) (v : Sample) (hs : MemInv s) :
    MemInv { s with buf := s.buf.put s.cfg.bufN v } := by
  obtain ⟨hwf, hbelow⟩ := id hs
  rcases put_cases s.cfg.bufN v s.buf with ⟨hroom, h⟩ | ⟨_, h⟩
  · simp only [MemInv, h, setFl_slots]
    exact ⟨memWrite_wf _ _ _ hwf, memWrite_below _ _ _ _ (slotAddr_lt _ _ _ hroom) hbelow⟩
  · rwa [h]

/-- Every command keeps the slot memory's invariant (R61). -/
theorem exec_memInv (i : Instr) (s t : State) (hs : MemInv s) (h : exec i s = .next t) : MemInv t := by
  cases exec_effect i s t h with
  | raised i f s => exact memInv_of_eq hs (raise_cfg s f) (by rw [raise_buf])
  | bufPut c d s => exact put_memInv s _ hs
  | bufPoll s => exact memInv_of_eq hs rfl (poll_slots _)
  | bufGet s v n => exact memInv_of_eq hs rfl (swap_slots _)
  | _ => exact hs

/-- Every effect of a move keeps the slot memory's invariant (R61). -/
theorem effect_memInv (m : Move) (s t : State) (h : Effect m s t) (hs : MemInv s) : MemInv t := by
  cases h with
  | reset s => exact ⟨rstN_wf s, rfl⟩
  | applied i s t _ _ _ _ _ hx => exact exec_memInv i s t hs hx
  | ticked m s n u _ _ _ _ hu => exact exec_memInv .bufGet { s with clk := { s.clk with tcount := n } } u hs hu
  | _ => exact memInv_of_eq hs (by simp) (by simp)

/-! ### What a command's checks leave when none fails -/

/-- DRV_OPEN needs a closed driver and a valid pin set (R161). -/
theorem faultOf_drvOpen_eq_none (s : State) :
    faultOf .drvOpen s = none ↔ s.seq.drv = .closed ∧ pinsOk s.cfg = true := by
  simp [faultOf, ite_eq_iff]

/-- DRV_RELEASE needs an open driver and no timer (R170). -/
theorem faultOf_drvRelease_eq_none (s : State) :
    faultOf .drvRelease s = none ↔ s.seq.drv = .opened ∧ s.clk.state = .none := by
  simp [faultOf]

/-- CLK_START needs no timer, an open driver and a period that can be programmed (R201). -/
theorem faultOf_clkStart_eq_none (rate calq : BitVec 32) (s : State) : faultOf (.clkStart rate calq) s = none ↔
    (s.clk.state = .none ∧ s.seq.drv = .opened) ∧ alarmOk s.cfg rate calq = true := by
  simp [faultOf, ite_eq_iff]

/-- CLK_STOP needs a running timer (R207). -/
theorem faultOf_clkStop_eq_none (s : State) : faultOf .clkStop s = none ↔ s.clk.state = .running := by
  simp [faultOf]

/-- CLK_DISABLE needs a stopped timer (R208). -/
theorem faultOf_clkDisable_eq_none (s : State) : faultOf .clkDisable s = none ↔ s.clk.state = .stopped := by
  simp [faultOf]

/-- A period that can be programmed is at least 1 and fits the alarm register (R201). -/
theorem alarmOk_bounds (c : Config) (rate calq : BitVec 32) (h : alarmOk c rate calq = true) :
    0 < alarmTicks c rate calq ∧ alarmTicks c rate calq ≤ 2 ^ c.timerWidth - 1 := by
  simp only [alarmOk, Bool.and_eq_true, decide_eq_true_eq] at h
  obtain ⟨⟨_, hne⟩, hle⟩ := h
  exact ⟨Nat.pos_of_ne_zero hne, hle⟩

/-! ### The lifecycles and the timer -/

/-- The lifecycle invariant reads the sequencer and the timer's state only. -/
theorem lifeInv_of_eq {s t : State} (hs : LifeInv s) (hseq : t.seq = s.seq) (hclk : t.clk.state = s.clk.state) :
    LifeInv t := by
  rwa [LifeInv, hseq, hclk]

/-- The timer's invariant reads the parameters and the timer only. -/
theorem timerInv_of_eq {s t : State} (hs : TimerInv s) (hcfg : t.cfg = s.cfg) (hclk : t.clk = s.clk) :
    TimerInv t := by
  rwa [TimerInv, hcfg, hclk]

/-- Every P-port command keeps the order of the lifecycles: its check is what that order asks (R160, R170, R201,
R209). -/
theorem exec_lifeInv (i : Instr) (s t : State) (hp : cOnly i = false) (hs : LifeInv s) (h : exec i s = .next t) :
    LifeInv t := by
  obtain ⟨hdrv, hframe, hstep⟩ := id hs
  cases exec_effect i s t h with
  | raised i f s => exact lifeInv_of_eq hs (raise_seq s f) (by rw [raise_clk])
  | bufGet s => cases hp
  | dacWrite c d s => cases hp
  | drvOpen s => exact ⟨fun _ => rfl, hframe, hstep⟩
  | drvRelease s hf =>
    obtain ⟨_, hclk⟩ := (faultOf_drvRelease_eq_none s).mp hf
    exact ⟨fun h => absurd hclk h, hframe, hstep⟩
  | clkStart r q s hf =>
    obtain ⟨⟨_, hopen⟩, _⟩ := (faultOf_clkStart_eq_none r q s).mp hf
    exact ⟨fun _ => hopen, fun _ => nofun, hstep⟩
  | clkStop s hf =>
    have hclk := (faultOf_clkStop_eq_none s).mp hf
    exact ⟨fun _ => hdrv (by simp [hclk]), fun _ => nofun, hstep⟩
  | clkDisable s hf =>
    have hclk := (faultOf_clkDisable_eq_none s).mp hf
    exact ⟨fun _ => hdrv (by simp [hclk]), fun _ => nofun, hstep⟩
  | clkDelete s _ hb => exact ⟨fun h => absurd rfl h, fun h => absurd (hb.symm.trans h) nofun, hstep⟩
  | _ => exact hs

/-- Every P-port command keeps the timer's invariant (R201, R209). -/
theorem exec_timerInv (i : Instr) (s t : State) (hp : cOnly i = false) (hs : TimerInv s) (h : exec i s = .next t) :
    TimerInv t := by
  obtain ⟨_, hsome⟩ := id hs
  cases exec_effect i s t h with
  | raised i f s => exact timerInv_of_eq hs (raise_cfg s f) (raise_clk s f)
  | bufGet s => cases hp
  | dacWrite c d s => cases hp
  | clkStart r q s hf =>
    obtain ⟨_, hok⟩ := (faultOf_clkStart_eq_none r q s).mp hf
    exact ⟨nofun, fun _ => alarmOk_bounds _ _ _ hok⟩
  | clkStop s hf =>
    have hclk := (faultOf_clkStop_eq_none s).mp hf
    exact ⟨nofun, fun _ => hsome (by simp [hclk])⟩
  | clkDisable s hf =>
    have hclk := (faultOf_clkDisable_eq_none s).mp hf
    exact ⟨nofun, fun _ => hsome (by simp [hclk])⟩
  | clkDelete s => exact ⟨fun _ => ⟨rfl, rfl⟩, fun h => absurd rfl h⟩
  | _ => exact hs

/-- The SEQ step keeps SEQ_STEP within [0, 64] (R29, R164). -/
theorem seqStep_step_le (s : State) (h : s.seq.step ≤ 64) : (seqStep s).seq.step ≤ 64 := by
  unfold seqStep
  split
  · simpa using ‹s.seq.step < 64›
  · exact h

/-- The SEQ step leaves the driver's lifecycle alone (R27, R164). -/
@[simp] theorem seqStep_drv (s : State) : (seqStep s).seq.drv = s.seq.drv := by
  unfold seqStep
  split <;> rfl

/-- Every effect of a move keeps the order of the lifecycles (R160, R170, R209). -/
theorem effect_lifeInv (m : Move) (s t : State) (h : Effect m s t) (hs : LifeInv s) : LifeInv t := by
  obtain ⟨hdrv, hframe, hstep⟩ := id hs
  cases h with
  | reset s =>
    obtain ⟨_, _, hlife, _⟩ := invariantAtPowerOn s.cfg
    exact hlife
  | applied i s t _ _ _ _ hp hx => exact exec_lifeInv i s t hp hs hx
  | ticked m s n u _ hr _ _ hu =>
    obtain ⟨_, v, d, rfl, _⟩ := execBufGet_next _ u hu
    exact ⟨hdrv, fun _ => by simp [hr], Nat.zero_le _⟩
  | wrote s hb =>
    have hclk := hframe hb
    rw [LifeInv, seqStep_clk, seqStep_drv]
    exact ⟨hdrv, fun _ => hclk, seqStep_step_le s hstep⟩
  | _ => exact lifeInv_of_eq hs (by simp) (by simp)

/-- Every effect of a move keeps the timer's invariant (R203, R205). -/
theorem effect_timerInv (m : Move) (s t : State) (h : Effect m s t) (hs : TimerInv s) : TimerInv t := by
  obtain ⟨hnone, hsome⟩ := id hs
  cases h with
  | reset s =>
    obtain ⟨_, _, _, htimer, _⟩ := invariantAtPowerOn s.cfg
    exact htimer
  | applied i s t _ _ _ _ hp hx => exact exec_timerInv i s t hp hs hx
  | counted s hr _ hne =>
    obtain ⟨hlt, hle⟩ := hsome (by simp [hr])
    exact ⟨fun h => absurd (hr.symm.trans h) nofun, fun _ => ⟨lt_of_le_of_ne hlt hne, hle⟩⟩
  | ticked m s n u hm hr _ _ hu =>
    obtain ⟨_, v, d, rfl, _⟩ := execBufGet_next _ u hu
    obtain ⟨hlt, hle⟩ := hsome (by simp [hr])
    refine ⟨fun h => absurd (hr.symm.trans h) nofun, fun _ => ⟨?_, hle⟩⟩
    rcases hm with ⟨_, rfl⟩ | ⟨_, rfl, _⟩
    · exact hlt
    · exact Nat.zero_lt_of_lt hlt
  | _ => exact timerInv_of_eq hs (by simp) (by simp)

/-! ### The crossing -/

/-- The crossing's invariant reads the crossing, the timer's state, SEQ_BUSY and RS only. -/
theorem cdcInv_of_eq {s t : State} (hs : CdcInv s) (hcdc : t.cdc = s.cdc) (hclk : t.clk.state = s.clk.state)
    (hbusy : t.seq.busy = s.seq.busy) (hrs : t.buf.rs = s.buf.rs) : CdcInv t := by
  rwa [CdcInv, hcdc, hclk, hbusy, hrs]

/-- An ISSUE makes the toggles differ (R242, R249). -/
theorem cdcInv_of_issue {s t : State} (w : CmdWord) (hs : CdcInv s) (hidle : s.cdc.phase = .idle)
    (hcdc : t.cdc = { s.cdc with mbox := w, phase := .pending, reqT := !s.cdc.reqT }) : CdcInv t := by
  have heq : s.cdc.reqT = s.cdc.ackT := by simpa [hidle] using hs.1
  rw [CdcInv, hcdc]
  exact ⟨by simp [heq], nofun⟩

/-- A completed APPLY makes the toggles agree (R243, R249). -/
theorem answered_cdcInv (v : Bool) {s t : State} (hs : CdcInv s) (hpending : s.cdc.phase = .pending)
    (hcdc : t.cdc = s.cdc) : CdcInv (answered v t) := by
  have hne : s.cdc.reqT ≠ s.cdc.ackT := hs.1.mp hpending
  have heq : t.cdc.reqT = !t.cdc.ackT := by
    rw [hcdc]
    exact Bool.eq_not_of_ne hne
  exact ⟨⟨nofun, fun h => absurd heq h⟩, nofun⟩

/-- A COMPLETE leaves the toggles equal, and where it enters the idle condition RS_SYNC has caught up with RS (R244,
R315; log 38). -/
theorem cdcInv_of_complete {s t : State} (hs : CdcInv s) (hdone : s.cdc.phase = .done)
    (hcdc : t.cdc = { s.cdc with phase := .idle, rsSync := if quiet s then s.buf.rs else s.cdc.rsSync })
    (hclk : t.clk = s.clk) (hseq : t.seq = s.seq) (hbuf : t.buf = s.buf) : CdcInv t := by
  have heq : s.cdc.reqT = s.cdc.ackT := by simpa [hdone] using hs.1
  rw [CdcInv, hcdc, hclk, hseq, hbuf]
  exact ⟨by simp [heq], fun hnone hbusy _ => if_pos ((quiet_iff s).mpr ⟨hnone, hbusy⟩)⟩

/-- Every effect of a move keeps the crossing's invariant: where RS moves or a frame ends a timer exists, and a command
that completes leaves the mailbox DONE (R249, R315; log 38). -/
theorem effect_cdcInv (m : Move) (s t : State) (h : Effect m s t) (hlife : LifeInv s) (hs : CdcInv s) :
    CdcInv t := by
  obtain ⟨htoggles, _⟩ := id hs
  cases h with
  | reset s =>
    obtain ⟨_, _, _, _, hcdc, _⟩ := invariantAtPowerOn s.cfg
    exact hcdc
  | issued w s hidle => exact cdcInv_of_issue w hs hidle rfl
  | hostIssued i s _ hidle => exact cdcInv_of_issue _ hs hidle rfl
  | completed s hdone => exact cdcInv_of_complete hs hdone (by simp) (by simp) (by simp) (by simp)
  | hostCompleted s _ hdone => exact cdcInv_of_complete hs hdone (by simp) (by simp) (by simp) (by simp)
  | applied i s t hpending _ _ _ hp hx =>
    rcases exec_port_next i s t hp hx with ⟨v, b, q, c, rfl⟩ | ⟨f, rfl⟩ | ⟨_, _, rfl⟩
    · exact answered_cdcInv v hs hpending rfl
    · exact cdcInv_of_eq hs (by simp) (by simp) (by simp) (by simp)
    · exact hs
  | ticked m s n u _ hr _ _ hu =>
    obtain ⟨_, v, d, rfl, _⟩ := execBufGet_next _ u hu
    exact ⟨htoggles, fun hnone => absurd (hr.symm.trans hnone) nofun⟩
  | wrote s hb =>
    obtain ⟨_, hframe, _⟩ := hlife
    rw [CdcInv, seqStep_cdc, seqStep_clk]
    exact ⟨htoggles, fun hnone => absurd hnone (hframe hb)⟩
  | synced s => exact ⟨htoggles, fun _ _ _ => rfl⟩
  | _ => exact cdcInv_of_eq hs (by simp) (by simp) (by simp) (by simp)

/-! ### The HOST and ERR -/

/-- The HOST's invariant reads the HOST and the mailbox phase only. -/
theorem hostInv_of_eq {s t : State} (hs : HostInv s) (hhost : t.producer = s.producer)
    (hphase : t.cdc.phase = s.cdc.phase) : HostInv t := by
  rwa [HostInv, hhost, hphase]

/-- The top of feed_loop keeps a value in each signal: it writes at most one more (R271, R273). -/
theorem atTop_logs (c : Command) (p : Producer) (hcmd : p.cmdLog ≠ []) (hvol : p.volLog ≠ []) :
    (p.atTop c).cmdLog ≠ [] ∧ (p.atTop c).volLog ≠ [] := by
  cases c with
  | stop => exact ⟨List.cons_ne_nil _ _, hvol⟩
  | play => exact ⟨List.cons_ne_nil _ _, hvol⟩
  | idle =>
    unfold Producer.atTop
    dsimp only
    split <;> exact ⟨hcmd, hvol⟩

/-- A step of the program that is no command keeps a value in each signal (R271). -/
theorem silent_logs (p q : Producer) (k : Nat) (h : p.silent k = some q) (hcmd : p.cmdLog ≠ [])
    (hvol : p.volLog ≠ []) : q.cmdLog ≠ [] ∧ q.volLog ≠ [] := by
  unfold Producer.silent at h
  split at h
  · cases h
  · split at h
    · cases h; exact ⟨hcmd, hvol⟩
    · cases h; exact ⟨hcmd, hvol⟩
    · cases h; exact ⟨hcmd, hvol⟩
    · cases h
  · cases h; exact ⟨hcmd, hvol⟩
  · cases h
  · cases h; exact atTop_logs _ p hcmd hvol
  · cases h
  · cases h
    unfold Producer.afterDrain
    split <;> exact ⟨hcmd, hvol⟩
  · cases h
  · cases h; exact ⟨hcmd, hvol⟩
  · cases h
  · cases h

/-- While the HOST runs no program nothing of a program is outstanding (R245). -/
theorem hostInv_of_free {s t : State} (hs : HostInv s) (hfree : s.producer.stage = .free)
    (hstage : t.producer.stage = s.producer.stage) (hawaiting : t.producer.awaiting = s.producer.awaiting)
    (hcmd : t.producer.cmdLog = s.producer.cmdLog) (hvol : t.producer.volLog = s.producer.volLog) : HostInv t := by
  obtain ⟨hwaits, _, hcmds, hvols⟩ := hs
  rw [HostInv, hstage, hawaiting, hcmd, hvol]
  exact ⟨fun ha => absurd hfree (hwaits ha).1, fun _ hne => absurd hfree hne, hcmds, hvols⟩

/-- An APPLY leaves the HOST as it is; while its command is outstanding the mailbox is not IDLE (R243, R245). -/
theorem hostInv_of_pending {s t : State} (hs : HostInv s) (hpending : s.cdc.phase = .pending)
    (hhost : t.producer = s.producer) (hphase : t.cdc.phase ≠ .idle) : HostInv t := by
  obtain ⟨hwaits, hidle, hlogs⟩ := hs
  rw [HostInv, hhost]
  refine ⟨fun ha => ⟨(hwaits ha).1, hphase⟩, fun ha hne => ?_, hlogs⟩
  exact absurd (hpending.symm.trans (hidle ha hne)) nofun

/-- Every effect of a move keeps the HOST's invariant (R245, R271). -/
theorem effect_hostInv (m : Move) (s t : State) (h : Effect m s t) (hs : HostInv s) : HostInv t := by
  obtain ⟨hwaits, hidle, hcmd, hvol⟩ := id hs
  cases h with
  | reset s => exact ⟨nofun, fun _ _ => rfl, hcmd, hvol⟩
  | issued w s _ hfree => exact hostInv_of_free hs hfree rfl rfl rfl rfl
  | completed s _ hfree => exact hostInv_of_free hs hfree (by simp) (by simp) (by simp) (by simp)
  | started g s he =>
    simp only [startEnabled, Bool.and_eq_true, beq_iff_eq] at he
    exact ⟨nofun, fun _ _ => he.2, hcmd, hvol⟩
  | cmdWritten c s => exact ⟨hwaits, hidle, List.cons_ne_nil _ _, hvol⟩
  | volWritten v s => exact ⟨hwaits, hidle, hcmd, List.cons_ne_nil _ _⟩
  | hostCompleted s =>
    rw [HostInv, hostComplete_producer, hostComplete_cdc]
    exact ⟨nofun, fun _ _ => rfl, hcmd, hvol⟩
  | hostIssued i s _ _ hc => exact ⟨fun _ => ⟨nextCommand_some _ _ i hc, nofun⟩, nofun, hcmd, hvol⟩
  | hostSilent p s ha hp =>
    obtain ⟨hpa, hstage⟩ := silent_some _ p _ hp
    have hna : p.awaiting = false := hpa.trans ha
    exact ⟨fun h => absurd (hna.symm.trans h) nofun, fun _ _ => hidle ha hstage, silent_logs _ p _ hp hcmd hvol⟩
  | applied i s t hpending _ _ _ hp hx =>
    rcases exec_port_next i s t hp hx with ⟨v, b, q, c, rfl⟩ | ⟨f, rfl⟩ | ⟨_, _, rfl⟩
    · exact hostInv_of_pending hs hpending rfl nofun
    · exact hostInv_of_eq hs (by simp) (by simp)
    · exact hs
  | ticked m s n u _ _ _ _ hu =>
    obtain ⟨_, v, d, rfl, _⟩ := execBufGet_next _ u hu
    exact hs
  | _ => exact hostInv_of_eq hs (by simp) (by simp)

/-- The invariant of ERR reads ERR and what the HOST has seen of it only. -/
theorem errInv_of_eq {s t : State} (hs : ErrInv s) (herr : t.err = s.err) (hseen : t.errSeen = s.errSeen) :
    ErrInv t := by
  rwa [ErrInv, herr, hseen]

/-- A fault leaves an assigned code in ERR (R300, R302). -/
theorem raise_errInv (f : FaultCode) (s : State) (hs : ErrInv s) : ErrInv (s.raise f) := by
  unfold State.raise
  split
  · exact ⟨f.code_le, fun _ => f.code_ne_zero⟩
  · exact hs

/-- Every effect of a move keeps the invariant of ERR (R43, R300). -/
theorem effect_errInv (m : Move) (s t : State) (h : Effect m s t) (hs : ErrInv s) : ErrInv t := by
  obtain ⟨hcode, hseen⟩ := id hs
  cases h with
  | reset s => exact ⟨Nat.zero_le _, nofun⟩
  | statusRead s =>
    refine ⟨hcode, fun h => ?_⟩
    rcases (Bool.or_eq_true _ _).mp h with h | h
    · exact hseen h
    · exact bne_iff_ne.mp ((Bool.and_eq_true _ _).mp h).2
  | applied i s t _ _ _ _ hp hx =>
    rcases exec_port_next i s t hp hx with ⟨v, b, q, c, rfl⟩ | ⟨f, rfl⟩ | ⟨_, _, rfl⟩
    · exact hs
    · exact raise_errInv f s hs
    · exact hs
  | rejected f s => exact raise_errInv f s hs
  | overrun m s => exact raise_errInv _ s hs
  | ticked m s n u _ _ _ _ hu =>
    obtain ⟨_, v, d, rfl, _⟩ := execBufGet_next _ u hu
    exact hs
  | _ => exact errInv_of_eq hs (by simp) (by simp)

/-! ### The lines within a frame -/

section FrameWrite

variable (v : Sample) (j : Nat)

/-- Write 0 of a bit clears the data lines whose bit is 0 (R165). -/
theorem frameWrite_clear (hj : j < 64) (hm : j % 4 = 0) : frameWrite v j = (.clr, clrGroup v (15 - j / 4)) := by
  simp [frameWrite, hj, hm]

/-- Write 1 of a bit sets the data lines whose bit is 1, and LE at bit 14 (R165, R166). -/
theorem frameWrite_set (hj : j < 64) (hm : j % 4 = 1) : frameWrite v j = (.set, setGroup v (15 - j / 4)) := by
  simp [frameWrite, hj, hm]

/-- Write 2 of a bit raises CLK (R164). -/
theorem frameWrite_rise (hj : j < 64) (hm : j % 4 = 2) : frameWrite v j = (.set, { clk := true }) := by
  simp [frameWrite, hj, hm]

/-- Write 3 of a bit lowers CLK (R164). -/
theorem frameWrite_fall (hj : j < 64) (hm : j % 4 = 3) : frameWrite v j = (.clr, { clk := true }) := by
  simp [frameWrite, hj, hm]

/-- The last write lowers LE (R164, R166). -/
theorem frameWrite_last (hj : ¬ j < 64) : frameWrite v j = (.clr, { le := true }) :=
  if_neg hj

end FrameWrite

section LineInv

variable {bit : Nat → Bool} {j : Nat} {l : Level}

/-- After the clear write of a bit a data line is low if the bit is 0 (R167). -/
theorem lineInv_clear (hm : j % 4 = 0) : LineInv bit (j + 1) (l.drive .clr (!bit (15 - j / 4))) := by
  refine ⟨fun _ h => absurd (by omega) h, fun _ hbit => ?_⟩
  have hdiv : (j + 1) / 4 = j / 4 := by omega
  rw [hdiv] at hbit
  rw [hbit]
  rfl

/-- After the set write of a bit a data line carries it (R168). -/
theorem lineInv_set (hm : j % 4 = 1) (h : LineInv bit j l) : LineInv bit (j + 1) (l.drive .set (bit (15 - j / 4))) := by
  obtain ⟨_, hlow⟩ := h
  refine ⟨fun _ _ => ?_, fun h1 => absurd h1 (by omega)⟩
  rw [Nat.add_sub_cancel]
  cases hbit : bit (15 - j / 4) with
  | true => rfl
  | false => exact hlow hm hbit

/-- Through the two writes of CLK a data line keeps the bit it carries (R168). -/
theorem lineInv_hold (hm : 2 ≤ j % 4) (h : LineInv bit j l) : LineInv bit (j + 1) l := by
  obtain ⟨hcarry, _⟩ := h
  refine ⟨fun _ _ => ?_, fun h1 => absurd h1 (by omega)⟩
  have hdiv : (j + 1 - 1) / 4 = (j - 1) / 4 := by omega
  rw [hdiv]
  exact hcarry (by omega) (by omega)

end LineInv

/-- The lines before write j of the frame of v (R166 to R168): what `PinInv` says of an open driver within a frame. -/
def FramePins (v : Sample) (j : Nat) (p : Pins) : Prop :=
  p.clk = levelOf (decide (j % 4 = 3)) ∧ p.le = levelOf (decide (6 ≤ j)) ∧
    LineInv (fun i => v.getLsbD (16 + i)) j p.d1 ∧ LineInv (fun i => v.getLsbD i) j p.d2

/-- Lines at rest are those before the first write of any frame (R163). -/
theorem framePins_zero (v : Sample) (p : Pins) (hclk : p.clk = .low) (hle : p.le = .low) : FramePins v 0 p :=
  ⟨hclk, hle, ⟨fun h => absurd h (by decide), fun h => absurd h (by decide)⟩,
    ⟨fun h => absurd h (by decide), fun h => absurd h (by decide)⟩⟩

/-- Each write but the last makes the lines before it those before the next (R164 to R168). -/
theorem framePins_succ (v : Sample) (j : Nat) (p : Pins) (hj : j < 64) (h : FramePins v j p) :
    FramePins v (j + 1) (p.drive (frameWrite v j).1 (frameWrite v j).2) := by
  obtain ⟨hclk, hle, hd1, hd2⟩ := h
  have hphase : j % 4 = 0 ∨ j % 4 = 1 ∨ j % 4 = 2 ∨ j % 4 = 3 := by omega
  rcases hphase with hm | hm | hm | hm
  · rw [frameWrite_clear v j hj hm]
    refine ⟨?_, ?_, lineInv_clear (bit := fun i => v.getLsbD (16 + i)) hm,
      lineInv_clear (bit := fun i => v.getLsbD i) hm⟩
    · exact hclk.trans (congrArg levelOf (decide_eq_decide.mpr (by omega)))
    · exact hle.trans (congrArg levelOf (decide_eq_decide.mpr (by omega)))
  · rw [frameWrite_set v j hj hm]
    refine ⟨?_, ?_, lineInv_set hm hd1, lineInv_set hm hd2⟩
    · exact hclk.trans (congrArg levelOf (decide_eq_decide.mpr (by omega)))
    · by_cases h14 : 15 - j / 4 = 14
      · have hj5 : 6 ≤ j + 1 := by omega
        simp [setGroup, Level.drive, Pins.drive, levelOf, h14, hj5]
      · have hne : (15 - j / 4 == 14) = false := beq_false_of_ne h14
        simp only [setGroup, hne]
        exact hle.trans (congrArg levelOf (decide_eq_decide.mpr (by omega)))
  · rw [frameWrite_rise v j hj hm]
    refine ⟨?_, ?_, lineInv_hold hm.ge hd1, lineInv_hold hm.ge hd2⟩
    · exact (congrArg levelOf (decide_eq_true (by omega))).symm
    · exact hle.trans (congrArg levelOf (decide_eq_decide.mpr (by omega)))
  · rw [frameWrite_fall v j hj hm]
    refine ⟨?_, ?_, lineInv_hold (by omega) hd1, lineInv_hold (by omega) hd2⟩
    · exact (congrArg levelOf (decide_eq_false (by omega))).symm
    · exact hle.trans (congrArg levelOf (decide_eq_decide.mpr (by omega)))

/-! ### The lines -/

/-- A group write leaves no line floating that was driven (R162). -/
theorem drive_ne_z (kind : WriteKind) (named : Bool) (l : Level) (h : l ≠ .z) : l.drive kind named ≠ .z := by
  cases named with
  | false => exact h
  | true => cases kind <;> nofun

/-- The invariant of the lines reads the sequencer only. -/
theorem pinInv_of_eq {s t : State} (hs : PinInv s) (hseq : t.seq = s.seq) : PinInv t := by
  rwa [PinInv, hseq]

/-- Every P-port command keeps the invariant of the lines: only DRV_OPEN and DRV_RELEASE change a line, and neither runs
during a frame (R161, R170). -/
theorem exec_pinInv (i : Instr) (s t : State) (hp : cOnly i = false) (hlife : LifeInv s) (hs : PinInv s)
    (h : exec i s = .next t) : PinInv t := by
  obtain ⟨hdrv, hframe, _⟩ := hlife
  cases exec_effect i s t h with
  | raised i f s => exact pinInv_of_eq hs (raise_seq s f)
  | bufGet s => cases hp
  | dacWrite c d s => cases hp
  | drvOpen s hf =>
    obtain ⟨hclosed, _⟩ := (faultOf_drvOpen_eq_none s).mp hf
    have hbusy : s.seq.busy ≠ true := fun hb => absurd (hclosed.symm.trans (hdrv (hframe hb))) nofun
    exact ⟨nofun, fun _ => ⟨nofun, nofun⟩, fun _ _ => ⟨rfl, rfl⟩, fun _ hb => absurd hb hbusy⟩
  | drvRelease s => exact ⟨fun _ => rfl, nofun, nofun, nofun⟩
  | _ => exact hs

/-- The SEQ step keeps the invariant of the lines: the writes of a frame lead from one write's lines to the next one's,
and the last leaves CLK and LE low (R164, R166). -/
theorem seqStep_pinInv (s : State) (hopen : s.seq.drv = .opened) (hbusy : s.seq.busy = true) (h64 : s.seq.step ≤ 64)
    (hs : PinInv s) : PinInv (seqStep s) := by
  obtain ⟨_, hdriven, _, hframe⟩ := hs
  obtain ⟨hd1, hd2⟩ := hdriven hopen
  have hpins : FramePins s.seq.data s.seq.step s.seq.pins := hframe hopen hbusy
  have hclosed : s.seq.drv ≠ .closed := by simp [hopen]
  unfold seqStep
  split
  next hlt =>
    exact ⟨fun h => absurd h hclosed, fun _ => ⟨drive_ne_z _ _ _ hd1, drive_ne_z _ _ _ hd2⟩,
      fun _ hb => absurd (hbusy.symm.trans hb) nofun, fun _ _ => framePins_succ _ _ _ hlt hpins⟩
  next hge =>
    obtain ⟨hclk, _⟩ := hpins
    have hlast : s.seq.step = 64 := by omega
    rw [frameWrite_last _ _ hge]
    rw [hlast] at hclk
    exact ⟨fun h => absurd h hclosed, fun _ => ⟨hd1, hd2⟩, fun _ _ => ⟨hclk, rfl⟩, fun _ => nofun⟩

/-- Every effect of a move keeps the invariant of the lines (R31, R166 to R168). -/
theorem effect_pinInv (m : Move) (s t : State) (h : Effect m s t) (hlife : LifeInv s) (hs : PinInv s) : PinInv t := by
  obtain ⟨hdrv, hframe, h64⟩ := id hlife
  cases h with
  | reset s => exact ⟨fun _ => rfl, nofun, nofun, nofun⟩
  | applied i s t _ _ _ _ hp hx => exact exec_pinInv i s t hp hlife hs hx
  | ticked m s n u _ hr _ hb hu =>
    obtain ⟨_, v, d, rfl, _⟩ := execBufGet_next _ u hu
    obtain ⟨hclosed, hdriven, hrest, _⟩ := hs
    refine ⟨hclosed, hdriven, fun _ => nofun, fun hopen _ => ?_⟩
    obtain ⟨hclk, hle⟩ := hrest hopen hb
    exact framePins_zero _ _ hclk hle
  | wrote s hb => exact seqStep_pinInv s (hdrv (hframe hb)) hb h64 hs
  | _ => exact pinInv_of_eq hs (by simp)

/-! ### The invariant of the whole machine -/

/-- Every effect of a move keeps the invariant of the whole machine. -/
theorem effect_inv (m : Move) (s t : State) (h : Effect m s t) (hs : Inv s) : Inv t := by
  obtain ⟨hmem, hbuf, hlife, htimer, hcdc, hhost, herr, hpin⟩ := hs
  exact ⟨effect_memInv m s t h hmem, effect_bufInv m s t h hbuf, effect_lifeInv m s t h hlife,
    effect_timerInv m s t h htimer, effect_cdcInv m s t h hlife hcdc, effect_hostInv m s t h hhost,
    effect_errInv m s t h herr, effect_pinInv m s t h hlife hpin⟩

/-- Settles O52: each part of the invariant is kept by every effect of a move, the crossing's and the lines' with the
help of the lifecycles'. -/
theorem stepKeepsInvariant : Obligations.StepKeepsInvariant := by
  unfold Obligations.StepKeepsInvariant
  exact step_keeps Inv (fun s => (takeMove_inv s).mpr) effect_inv

end Sys2Proof.Machine

/-! SUPPORT. The DAC sequencer (41_dac_sequencer.md): the driver's two commands, the writes of a frame and the lines
after each of them, and the two DAC chips that watch the lines. -/

namespace Sys2Proof.Machine

/-! ### DRV_OPEN, DAC_WRITE and DRV_RELEASE -/

/-- The pin set is valid where the four pins are pairwise distinct and each can drive an output (R161). -/
theorem pinsOk_iff (c : Config) : pinsOk c = true ↔
    (c.pinClk ≠ c.pinD1 ∧ c.pinClk ≠ c.pinD2 ∧ c.pinClk ≠ c.pinLe ∧ c.pinD1 ≠ c.pinD2 ∧
      c.pinD1 ≠ c.pinLe ∧ c.pinD2 ≠ c.pinLe) ∧
    (c.pinClk ∈ c.validOutPins ∧ c.pinD1 ∈ c.validOutPins ∧ c.pinD2 ∈ c.validOutPins ∧
      c.pinLe ∈ c.validOutPins) := by
  simp [pinsOk, pinNumbers, and_assoc]

/-- Settles O22, by the branches of DRV_OPEN in their order. -/
theorem drvOpenTakesPins : Obligations.DrvOpenTakesPins := by
  unfold Obligations.DrvOpenTakesPins
  intro s
  refine ⟨fun hopen => ?_, fun hclosed hpins => ?_, fun hclosed hpins => ?_⟩
  · simp [exec, execDrvOpen, hopen, raise_eq_faulted, FaultCode.code]
  · have hbad : pinsOk s.cfg = false := by rwa [← Bool.not_eq_true, pinsOk_iff]
    simp [exec, execDrvOpen, hclosed, hbad, raise_eq_faulted, FaultCode.code]
  · have hok : pinsOk s.cfg = true := (pinsOk_iff s.cfg).mpr hpins
    simp [exec, execDrvOpen, hclosed, hok, respond_eq_answered, Pins.all]

/-- Settles O23: the whole of DAC_WRITE's own rule. -/
theorem dacWriteStartsFrame : Obligations.DacWriteStartsFrame := by
  unfold Obligations.DacWriteStartsFrame
  exact fun _ _ _ => rfl

/-- Settles O24, by the two branches of DRV_RELEASE. -/
theorem drvReleaseFloatsPins : Obligations.DrvReleaseFloatsPins := by
  unfold Obligations.DrvReleaseFloatsPins
  refine fun s => ⟨fun hfault => ?_, fun hopen hnone => ?_⟩
  · have hcheck : s.seq.drv ≠ .opened ∨ s.clk.state ≠ .none := hfault.imp_left fun hclosed => by simp [hclosed]
    simp [exec, execDrvRelease, hcheck, raise_eq_faulted, FaultCode.code]
  · simp [exec, execDrvRelease, hopen, hnone, respond_eq_answered, Pins.all]

/-! ### The SEQ step -/

/-- With a frame in flight and no fault, the SEQ move is the SEQ step (R164). -/
theorem perform_seq (s : State) (hbusy : s.seq.busy = true) (h0 : s.err = 0) : perform .seq s = .next (seqStep s) := by
  simp [perform, enabled, act, hbusy, h0]

/-- Every write but the last steps SEQ_STEP (R164). -/
theorem seqStep_of_lt (s : State) (h : s.seq.step < 64) : seqStep s = { s with seq := { s.seq with
    step := s.seq.step + 1
    trace := s.seq.trace ++ [.write (frameWrite s.seq.data s.seq.step).1 (frameWrite s.seq.data s.seq.step).2]
    pins := s.seq.pins.drive (frameWrite s.seq.data s.seq.step).1 (frameWrite s.seq.data s.seq.step).2 } } :=
  if_pos h

/-- The last write clears LE and ends the frame (R164, R166). -/
theorem seqStep_of_le (s : State) (h : 64 ≤ s.seq.step) : seqStep s = { s with seq := { s.seq with
    busy := false
    trace := s.seq.trace ++ [.write .clr { le := true }]
    pins := { s.seq.pins with le := .low } } } := by
  have hge : ¬ s.seq.step < 64 := Nat.not_lt.mpr h
  refine (if_neg hge).trans ?_
  rw [frameWrite_last _ _ hge]
  rfl

/-- The clear write of bit i lowers the data lines whose bit is 0 and keeps the other lines (R165). -/
theorem drive_clrGroup (v : Sample) (i : Nat) (p : Pins) : p.drive .clr (clrGroup v i) =
    { p with
      d1 := if v.getLsbD (16 + i) then p.d1 else .low
      d2 := if v.getLsbD i then p.d2 else .low } := by
  unfold Pins.drive clrGroup
  cases v.getLsbD (16 + i) <;> cases v.getLsbD i <;> rfl

/-- The set write of bit i raises the data lines whose bit is 1, and LE for bit 14 (R165, R166). -/
theorem drive_setGroup (v : Sample) (i : Nat) (p : Pins) : p.drive .set (setGroup v i) =
    { p with
      d1 := if v.getLsbD (16 + i) then .high else p.d1
      d2 := if v.getLsbD i then .high else p.d2
      le := if i = 14 then .high else p.le } := by
  unfold setGroup
  by_cases h14 : i = 14
  · subst h14
    rfl
  · rw [beq_false_of_ne h14, if_neg h14]
    rfl

/-- Settles O25: each phase's write, by its mask, line by line. -/
theorem seqStepWritesGroup : Obligations.SeqStepWritesGroup := by
  unfold Obligations.SeqStepWritesGroup
  intro s hbusy h0
  simp only [perform_seq s hbusy h0]
  refine ⟨fun hj hm => ?_, fun hj hm => ?_, fun hj hm => ?_, fun hj hm => ?_, fun hj => ?_⟩
  · rw [seqStep_of_lt s hj, frameWrite_clear _ _ hj hm, drive_clrGroup, clrGroup]
  · rw [seqStep_of_lt s hj, frameWrite_set _ _ hj hm, drive_setGroup, setGroup, beq_eq_decide]
  · rw [seqStep_of_lt s hj, frameWrite_rise _ _ hj hm]
    rfl
  · rw [seqStep_of_lt s hj, frameWrite_fall _ _ hj hm]
    rfl
  · rw [seqStep_of_le s hj]

/-! ### The frame as a list of writes -/

section FrameTrace

variable (v : Sample) (j : Nat)

/-- A frame is 65 writes (R169). -/
@[simp] theorem frameTrace_length : (frameTrace v).length = 65 := by simp [frameTrace]

/-- Entry j of a frame is its write j (R164). -/
theorem frameTrace_getElem? (hj : j < 65) :
    (frameTrace v)[j]? = some (.write (frameWrite v j).1 (frameWrite v j).2) := by
  simp [frameTrace, hj]

/-- The first j + 1 writes of a frame are the first j and write j. -/
theorem frameTrace_take_succ (hj : j < 65) :
    (frameTrace v).take (j + 1) = (frameTrace v).take j ++ [.write (frameWrite v j).1 (frameWrite v j).2] := by
  rw [List.take_add_one, frameTrace_getElem? v j hj]
  rfl

/-- All 65 writes are the whole frame. -/
theorem frameTrace_take_all : (frameTrace v).take 65 = frameTrace v :=
  List.take_of_length_le (frameTrace_length v).le

/-- A frame is its first 64 writes and then the clear of LE (R164). -/
theorem frameTrace_take_append_last : (frameTrace v).take 64 ++ [.write .clr { le := true }] = frameTrace v := by
  have hsucc := frameTrace_take_succ v 64 (by decide)
  rw [frameWrite_last v 64 (by decide), frameTrace_take_all] at hsucc
  exact hsucc.symm

end FrameTrace

/-! ### The lines after each write of a frame -/

/-- The data lines after some trace do not depend on where CLK and LE began: a group write drives each line by
itself, and the other entries drive all lines to one level (R161, R162, R170). -/
theorem foldl_apply_data_lines (es : List TraceEntry) (p q : Pins) (h1 : p.d1 = q.d1) (h2 : p.d2 = q.d2) :
    (es.foldl (fun r e => e.apply r) p).d1 = (es.foldl (fun r e => e.apply r) q).d1 ∧
      (es.foldl (fun r e => e.apply r) p).d2 = (es.foldl (fun r e => e.apply r) q).d2 := by
  induction es generalizing p q with
  | nil => exact ⟨h1, h2⟩
  | cons e es ih =>
    cases e with
    | opened => exact ⟨rfl, rfl⟩
    | released => exact ⟨rfl, rfl⟩
    | write kind m => exact ih _ _ (congrArg (Level.drive kind m.d1) h1) (congrArg (Level.drive kind m.d2) h2)

section PinsAfter

variable (v : Sample) (j : Nat) (p : Pins)

/-- Before the first write the lines are those the frame begins from. -/
theorem pinsAfter_zero : pinsAfter v 0 p = p := rfl

/-- Write j changes the lines the first j writes leave. -/
theorem pinsAfter_succ (hj : j < 65) :
    pinsAfter v (j + 1) p = (pinsAfter v j p).drive (frameWrite v j).1 (frameWrite v j).2 := by
  simp only [pinsAfter, frameTrace_take_succ v j hj, List.foldl_append, List.foldl_cons, List.foldl_nil,
    TraceEntry.apply]

/-- The last write lowers LE alone (R164, R166). -/
theorem pinsAfter_last : pinsAfter v 65 p = { pinsAfter v 64 p with le := .low } := by
  rw [pinsAfter_succ v 64 p (by decide), frameWrite_last v 64 (by decide)]
  rfl

/-- From lines at rest, the first j writes leave the lines as `FramePins` has them before write j. -/
theorem framePins_pinsAfter (hclk : p.clk = .low) (hle : p.le = .low) (hj : j ≤ 64) :
    FramePins v j (pinsAfter v j p) := by
  induction j with
  | zero => exact framePins_zero v p hclk hle
  | succ j ih =>
    rw [pinsAfter_succ v j p (by omega)]
    exact framePins_succ v j _ hj (ih (by omega))

/-- CLK within a frame: high only between the two writes of a pulse (R164). -/
theorem pinsAfter_clk (hclk : p.clk = .low) (hle : p.le = .low) (hj : j ≤ 65) :
    (pinsAfter v j p).clk = levelOf (decide (j % 4 = 3)) := by
  rcases hj.lt_or_eq with hlt | rfl
  · obtain ⟨h, _⟩ := framePins_pinsAfter v j p hclk hle (by omega)
    exact h
  · obtain ⟨h, _⟩ := framePins_pinsAfter v 64 p hclk hle le_rfl
    rw [pinsAfter_last]
    exact h

/-- LE within a frame: high from write 5 to write 64 (R166). -/
theorem pinsAfter_le (hclk : p.clk = .low) (hle : p.le = .low) (hj : j ≤ 65) :
    (pinsAfter v j p).le = levelOf (decide (6 ≤ j ∧ j ≤ 64)) := by
  rcases hj.lt_or_eq with hlt | rfl
  · obtain ⟨_, h, _⟩ := framePins_pinsAfter v j p hclk hle (by omega)
    exact h.trans (congrArg levelOf (decide_eq_decide.mpr (by omega)))
  · rw [pinsAfter_last]
    rfl

/-- The data lines follow the frame from any lines, at rest or not (R167, R168). -/
theorem lineInv_pinsAfter (hj : j ≤ 64) :
    LineInv (fun i => v.getLsbD (16 + i)) j (pinsAfter v j p).d1 ∧
      LineInv (fun i => v.getLsbD i) j (pinsAfter v j p).d2 := by
  obtain ⟨h1, h2⟩ := foldl_apply_data_lines ((frameTrace v).take j) p { p with clk := .low, le := .low } rfl rfl
  obtain ⟨_, _, hd1, hd2⟩ := framePins_pinsAfter v j { p with clk := .low, le := .low } rfl rfl hj
  exact ⟨h1 ▸ hd1, h2 ▸ hd2⟩

/-- From the set write of bit 15 - k until its pulse ends, the data lines carry that bit of each channel (R168). -/
theorem pinsAfter_data (k : Nat) (hk : k < 16) (hlo : 4 * k + 2 ≤ j) (hhi : j ≤ 4 * k + 4) :
    (pinsAfter v j p).d1 = levelOf (v.getLsbD (16 + (15 - k))) ∧
      (pinsAfter v j p).d2 = levelOf (v.getLsbD (15 - k)) := by
  obtain ⟨⟨h1, _⟩, ⟨h2, _⟩⟩ := lineInv_pinsAfter v j p (by omega)
  have hdiv : (j - 1) / 4 = k := by omega
  rw [hdiv] at h1 h2
  exact ⟨h1 (by omega) (by omega), h2 (by omega) (by omega)⟩

/-- A whole frame leaves CLK and LE low and the data lines at bit 0, whatever the lines were (R168). -/
theorem pinsAfter_frame : pinsAfter v 65 p =
    { clk := .low, d1 := levelOf (v.getLsbD 16), d2 := levelOf (v.getLsbD 0), le := .low } := by
  have hclk : (pinsAfter v 64 p).clk = .low := by
    rw [pinsAfter_succ v 63 p (by decide), frameWrite_fall v 63 (by decide) (by decide)]
    rfl
  obtain ⟨hd1, hd2⟩ := pinsAfter_data v 64 p 15 (by decide) (by decide) (by decide)
  simp only [pinsAfter_last, hclk, hd1, hd2, Nat.sub_self, Nat.add_zero]

end PinsAfter

/-- Settles O29: the clear write of bit 15 - k is write 4k of the frame (R165). -/
theorem resetBeforeSetOrdering : Obligations.ResetBeforeSetOrdering := by
  unfold Obligations.ResetBeforeSetOrdering
  intro v p k hk
  have hdiv : 4 * k / 4 = k := by omega
  rw [pinsAfter_succ v (4 * k) p (by omega), frameWrite_clear v (4 * k) (by omega) (by omega), hdiv,
    drive_clrGroup]
  exact ⟨rfl, rfl⟩

/-! ### A whole frame -/

/-- Moves run after others run from the state those leave. -/
theorem runMoves_append (ms ns : List Move) (s t : State) (h : runMoves ms s = .next t) :
    runMoves (ms ++ ns) s = runMoves ns t := by
  induction ms generalizing s with
  | nil => cases h; rfl
  | cons m ms ih =>
    simp only [List.cons_append, runMoves] at h ⊢
    split at h
    · exact ih _ h
    · cases h
    · cases h

/-- The state after the first j writes of a frame, none of them the last (R164). -/
def midFrame (s : State) (j : Nat) : State :=
  { s with seq := { s.seq with
      step := j
      trace := s.seq.trace ++ (frameTrace s.seq.data).take j
      pins := pinsAfter s.seq.data j s.seq.pins } }

/-- Before its first write nothing of a frame is done. -/
theorem midFrame_zero (s : State) (hstep : s.seq.step = 0) : midFrame s 0 = s := by
  rw [midFrame, List.take_zero, List.append_nil, pinsAfter_zero, ← hstep]

/-- A SEQ step within a frame adds the next write. -/
theorem seqStep_midFrame (s : State) (j : Nat) (hj : j < 64) : seqStep (midFrame s j) = midFrame s (j + 1) := by
  rw [seqStep_of_lt _ (show (midFrame s j).seq.step < 64 from hj)]
  simp only [midFrame, frameTrace_take_succ _ j (Nat.lt_succ_of_lt hj), pinsAfter_succ _ j _ (Nat.lt_succ_of_lt hj),
    List.append_assoc]

/-- The SEQ step at write 64 ends the frame, with all its writes made (R164, R168). -/
theorem seqStep_midFrame_last (s : State) : seqStep (midFrame s 64) = { s with seq := { s.seq with
    busy := false
    step := 64
    trace := s.seq.trace ++ frameTrace s.seq.data
    pins :=
      { clk := .low
        d1 := levelOf (s.seq.data.getLsbD 16)
        d2 := levelOf (s.seq.data.getLsbD 0)
        le := .low } } } := by
  rw [seqStep_of_le _ (le_refl (midFrame s 64).seq.step), ← pinsAfter_frame _ s.seq.pins, pinsAfter_last]
  simp only [midFrame, List.append_assoc, frameTrace_take_append_last]

/-- j SEQ steps from the start of a frame make its first j writes (R164). -/
theorem runMoves_seq (s : State) (hbusy : s.seq.busy = true) (hstep : s.seq.step = 0) (h0 : s.err = 0) (j : Nat)
    (hj : j ≤ 64) : runMoves (List.replicate j .seq) s = .next (midFrame s j) := by
  induction j with
  | zero => exact congrArg _ (midFrame_zero s hstep).symm
  | succ j ih =>
    rw [List.replicate_succ', runMoves_append _ _ _ _ (ih (by omega))]
    simp only [runMoves, perform_seq (midFrame s j) hbusy h0, seqStep_midFrame s j hj]

/-- Settles O26: 64 SEQ steps make all writes but the last, and the 65th makes that one and ends the frame. -/
theorem frameIsSixtyFiveWrites : Obligations.FrameIsSixtyFiveWrites := by
  unfold Obligations.FrameIsSixtyFiveWrites
  intro s hbusy hstep h0
  rw [List.replicate_succ', runMoves_append _ _ _ _ (runMoves_seq s hbusy hstep h0 64 le_rfl)]
  simp only [runMoves, perform_seq (midFrame s 64) hbusy h0, seqStep_midFrame_last]

/-! ### The edges of a frame -/

/-- The level of a bit is low exactly where the bit is 0. -/
@[simp] theorem levelOf_eq_low_iff (b : Bool) : levelOf b = .low ↔ b = false := by cases b <;> simp [levelOf]

/-- The level of a bit is high exactly where the bit is 1. -/
@[simp] theorem levelOf_eq_high_iff (b : Bool) : levelOf b = .high ↔ b = true := by cases b <;> simp [levelOf]

section Edges

variable (v : Sample) (j : Nat) (p : Pins) (hclk : p.clk = .low) (hle : p.le = .low) (hj : j < 65)

include hclk hle hj

/-- CLK rises at the writes of phase 2 only (R169). -/
theorem clk_rises_iff : ((pinsAfter v j p).clk = .low ∧ (pinsAfter v (j + 1) p).clk = .high) ↔ j % 4 = 2 := by
  simp only [pinsAfter_clk v j p hclk hle hj.le, pinsAfter_clk v (j + 1) p hclk hle hj, levelOf_eq_low_iff,
    levelOf_eq_high_iff, decide_eq_false_iff_not, decide_eq_true_eq]
  omega

/-- LE rises at write 5 only (R166). -/
theorem le_rises_iff : ((pinsAfter v j p).le = .low ∧ (pinsAfter v (j + 1) p).le = .high) ↔ j = 5 := by
  simp only [pinsAfter_le v j p hclk hle hj.le, pinsAfter_le v (j + 1) p hclk hle hj, levelOf_eq_low_iff,
    levelOf_eq_high_iff, decide_eq_false_iff_not, decide_eq_true_eq]
  omega

/-- LE falls at the last write only (R166). -/
theorem le_falls_iff : ((pinsAfter v j p).le = .high ∧ (pinsAfter v (j + 1) p).le = .low) ↔ j = 64 := by
  simp only [pinsAfter_le v j p hclk hle hj.le, pinsAfter_le v (j + 1) p hclk hle hj, levelOf_eq_low_iff,
    levelOf_eq_high_iff, decide_eq_false_iff_not, decide_eq_true_eq]
  omega

end Edges

/-- LE is in the set group of bit 14, which is write 5 (R166). -/
theorem setGroup_le (v : Sample) (j : Nat) (hj : j < 64) (hm : j % 4 = 1) :
    (setGroup v (15 - j / 4)).le = decide (j = 5) :=
  (beq_eq_decide _ _).trans (decide_eq_decide.mpr (by omega))

/-- Settles O28: the writes by their phases, the edges by the levels of CLK and LE, the bits by `pinsAfter_data`. -/
theorem framePulseTotals : Obligations.FramePulseTotals := by
  unfold Obligations.FramePulseTotals
  intro v p hclk hle
  refine ⟨frameTrace_length v, fun j hj => ?_, ?_, fun j => clk_rises_iff v j p hclk hle,
    fun k hk => pinsAfter_data v _ p k hk (by omega) (by omega), fun j => le_rises_iff v j p hclk hle,
    fun j => le_falls_iff v j p hclk hle⟩
  · rw [frameTrace_getElem? v j (Nat.lt_succ_of_lt hj)]
    refine ⟨fun hm => ?_, fun hm => ?_, fun hm => ?_, fun hm => ?_⟩
    · rw [frameWrite_clear v j hj hm]
      exact ⟨_, _, rfl⟩
    · rw [frameWrite_set v j hj hm, ← setGroup_le v j hj hm]
      exact ⟨_, _, rfl⟩
    · rw [frameWrite_rise v j hj hm]
    · rw [frameWrite_fall v j hj hm]
  · rw [frameTrace_getElem? v 64 (by decide), frameWrite_last v 64 (by decide)]

/-! ### The DAC chips -/

/-- Where the chips have watched some entries, they see the next one from the lines those leave. -/
theorem observe_append (es : List TraceEntry) (e : TraceEntry) (p : Pins) (d : Dacs) :
    observe (es ++ [e]) p d =
      (observe es p d).see (es.foldl (fun q e => e.apply q) p) (e.apply (es.foldl (fun q e => e.apply q) p)) := by
  induction es generalizing p d with
  | nil => rfl
  | cons f es ih => exact ih _ _

/-- The chips after the first j writes of a sample's frame, from the lines p. -/
def dacsAfter (v : Sample) (j : Nat) (p : Pins) (d : Dacs) : Dacs := observe ((frameTrace v).take j) p d

/-- At write j the chips see the lines change from those after j writes to those after j + 1. -/
theorem dacsAfter_succ (v : Sample) (j : Nat) (p : Pins) (d : Dacs) (hj : j < 65) :
    dacsAfter v (j + 1) p d = (dacsAfter v j p d).see (pinsAfter v j p) (pinsAfter v (j + 1) p) := by
  rw [dacsAfter, frameTrace_take_succ v j hj, observe_append, pinsAfter_succ v j p hj]
  rfl

section See

variable (p q : Pins) (d : Dacs)

/-- A rising CLK shifts the levels of the data lines into the chips; nothing else touches the shift registers (R174). -/
theorem see_sr : (d.see p q).sr1 = (if p.clk = .low ∧ q.clk = .high then shiftIn d.sr1 q.d1 else d.sr1) ∧
    (d.see p q).sr2 = (if p.clk = .low ∧ q.clk = .high then shiftIn d.sr2 q.d2 else d.sr2) := by
  unfold Dacs.see
  split <;> split <;> exact ⟨rfl, rfl⟩

/-- A falling LE commits the shift registers to the outputs (R174). -/
theorem see_out_of_le_falls (h : p.le = .high ∧ q.le = .low) :
    (d.see p q).out1 = (d.see p q).sr1 ∧ (d.see p q).out2 = (d.see p q).sr2 := by
  simp only [Dacs.see, if_pos h, and_self]

end See

/-- A shift register holds the first n bits of a channel, most-significant bit first, in its low n bits. -/
def Shifted (bit : Nat → Bool) (n : Nat) (sr : Channel) : Prop := ∀ i, i < n → sr.getLsbD i = bit (16 - n + i)

/-- A shift makes the line's level bit 0 and moves every other bit up by one (R174). -/
theorem shiftIn_getLsbD (sr : Channel) (l : Level) (i : Nat) (hi : i < 16) :
    (shiftIn sr l).getLsbD i = if i = 0 then l == .high else sr.getLsbD (i - 1) := by
  refine (BitVec.getLsbD_append (x := sr.extractLsb' 0 15) (y := BitVec.ofBool (l == .high))).trans ?_
  cases i with
  | zero => simp
  | succ i => simp [show i < 15 by omega]

/-- Shifting in the next bit of a channel. -/
theorem shifted_shiftIn (bit : Nat → Bool) (n : Nat) (sr : Channel) (hn : n < 16) (h : Shifted bit n sr) :
    Shifted bit (n + 1) (shiftIn sr (levelOf (bit (15 - n)))) := by
  intro i hi
  rw [shiftIn_getLsbD _ _ _ (by omega)]
  cases i with
  | zero =>
    have hbit : 16 - (n + 1) + 0 = 15 - n := by omega
    rw [hbit]
    cases bit (15 - n) <;> rfl
  | succ i =>
    have hbit : 16 - (n + 1) + (i + 1) = 16 - n + i := by omega
    rw [hbit]
    exact h i (by omega)

/-- After j writes of a frame each chip has shifted in one bit of its channel for each rise of CLK (R169, R174). -/
theorem shifted_dacsAfter (v : Sample) (j : Nat) (p : Pins) (d : Dacs) (hclk : p.clk = .low) (hle : p.le = .low)
    (hj : j ≤ 65) :
    Shifted (fun i => v.getLsbD (16 + i)) ((j + 1) / 4) (dacsAfter v j p d).sr1 ∧
      Shifted (fun i => v.getLsbD i) ((j + 1) / 4) (dacsAfter v j p d).sr2 := by
  induction j with
  | zero => exact ⟨fun i hi => absurd hi (by simp), fun i hi => absurd hi (by simp)⟩
  | succ j ih =>
    obtain ⟨ih1, ih2⟩ := ih (by omega)
    obtain ⟨hsr1, hsr2⟩ := see_sr (pinsAfter v j p) (pinsAfter v (j + 1) p) (dacsAfter v j p d)
    rw [dacsAfter_succ v j p d hj, hsr1, hsr2]
    simp only [clk_rises_iff v j p hclk hle hj]
    split
    next hrise =>
      obtain ⟨k, rfl⟩ : ∃ k, j = 4 * k + 2 := ⟨j / 4, by omega⟩
      obtain ⟨hd1, hd2⟩ := pinsAfter_data v (4 * k + 2 + 1) p k (by omega) (by omega) (by omega)
      have hbefore : (4 * k + 2 + 1) / 4 = k := by omega
      have hafter : (4 * k + 2 + 1 + 1) / 4 = k + 1 := by omega
      rw [hbefore] at ih1 ih2
      rw [hafter, hd1, hd2]
      exact ⟨shifted_shiftIn _ k _ (by omega) ih1, shifted_shiftIn _ k _ (by omega) ih2⟩
    next hhold =>
      have hsame : (j + 1 + 1) / 4 = (j + 1) / 4 := by omega
      rw [hsame]
      exact ⟨ih1, ih2⟩

/-- Settles O27: all sixteen bits are in the shift registers when the falling LE of the last write commits them. -/
theorem frameReachesBothDacs : Obligations.FrameReachesBothDacs := by
  unfold Obligations.FrameReachesBothDacs
  intro v p d hclk hle
  have hfalls := (le_falls_iff v 64 p hclk hle (by decide)).mpr rfl
  obtain ⟨hout1, hout2⟩ := see_out_of_le_falls _ _ (dacsAfter v 64 p d) hfalls
  obtain ⟨hsr1, hsr2⟩ := shifted_dacsAfter v 65 p d hclk hle le_rfl
  rw [← dacsAfter_succ v 64 p d (by decide)] at hout1 hout2
  have hframe : observe (frameTrace v) p d = dacsAfter v 65 p d := by rw [dacsAfter, frameTrace_take_all]
  rw [hframe, hout1, hout2]
  refine ⟨BitVec.eq_of_getLsbD_eq fun i hi => (hsr1 i hi).trans ?_,
    BitVec.eq_of_getLsbD_eq fun i hi => (hsr2 i hi).trans ?_⟩
  · simp [chan1, hi]
  · simp [chan2, hi]

end Sys2Proof.Machine

/-! SUPPORT. The statements of 42_sample_clock.md: the timer's four commands, the TICK and the timer's count, and what
no longer happens once the timer has stopped. -/

namespace Sys2Proof.Machine

/-! ### The commands of the timer -/

/-- A command whose check fails sets ERR to that check's code and changes nothing else (R302). -/
theorem exec_of_faultOf (i : Instr) (f : FaultCode) (s : State) (h : faultOf i s = some f) :
    exec i s = .next (faulted f.code s) := by
  have hport : cOnly i = false := by
    cases i with
    | bufGet => cases h
    | dacWrite c d => cases h
    | _ => rfl
  obtain ⟨t, ht⟩ := exec_port_exists i s hport
  cases exec_effect i s t ht with
  | raised i g s hg => rw [ht, raise_eq_faulted, Option.some.inj (hg.symm.trans h)]
  | bufReset s hr => exact absurd (running_of_faultOf_bufReset f s h) hr
  | bufPut | bufPoll | bufGet | dacWrite => cases h
  | drvOpen s hf | drvRelease s hf | clkStart r q s hf | clkStop s hf | clkDisable s hf | clkDelete s hf
  | clkDeleteHeld s hf => cases hf.symm.trans h

/-- The alarm period with the oversampling factor of 1 left out (R201). -/
theorem alarmTicks_eq (c : Config) (rate calq : BitVec 32) :
    alarmTicks c rate calq = (c.timerResHz * calq.toNat) / (rate.toNat * 65536) := by
  rw [alarmTicks, Config.osf, Nat.mul_one]

/-- A period can be programmed where neither operand is 0 and the period is at least 1 and fits the alarm register
(R201). -/
theorem alarmOk_iff (c : Config) (rate calq : BitVec 32) : alarmOk c rate calq = true ↔
    rate ≠ 0 ∧ calq ≠ 0 ∧ alarmTicks c rate calq ≠ 0 ∧ alarmTicks c rate calq ≤ 2 ^ c.timerWidth - 1 := by
  simp only [alarmOk, Bool.and_eq_true, decide_eq_true_eq, and_assoc]

/-- Settles O30: the two checks of CLK_START pass, and the period it programs is the statement's quotient. -/
theorem clkStartProgramsAlarm : Obligations.ClkStartProgramsAlarm := by
  unfold Obligations.ClkStartProgramsAlarm
  intro s rate calq
  rw [← alarmTicks_eq]
  intro a hnone hopen hrate hcalq hpos hfits
  have hok : alarmOk s.cfg rate calq = true := (alarmOk_iff _ _ _).mpr ⟨hrate, hcalq, hpos, hfits⟩
  simp [exec, execClkStart, hnone, hopen, hok, respond_eq_answered, a]

/-- Settles O31: LIFECYCLE by the first check of CLK_START, TIMER_CONFIG by the second where the first passes. -/
theorem clkStartFaults : Obligations.ClkStartFaults := by
  unfold Obligations.ClkStartFaults
  intro s rate calq
  rw [← alarmTicks_eq]
  refine ⟨fun hlife => exec_of_faultOf _ .lifecycle s (if_pos hlife), fun hnone hopen hbad => ?_⟩
  have hlife : ¬ (s.clk.state ≠ .none ∨ s.seq.drv ≠ .opened) := by simp [hnone, hopen]
  have hcfg : alarmOk s.cfg rate calq = false := by
    rw [← Bool.not_eq_true, alarmOk_iff]
    rintro ⟨hrate, hcalq, hpos, hfits⟩
    rcases hbad with h | h | h | h
    · exact hrate h
    · exact hcalq h
    · exact hpos h
    · exact absurd hfits (Nat.not_le.mpr h)
  exact exec_of_faultOf _ .timerConfig s ((if_neg hlife).trans (if_pos hcfg))

/-- Settles O32, by the one check of CLK_STOP. -/
theorem clkStopStopsTimer : Obligations.ClkStopStopsTimer := by
  unfold Obligations.ClkStopStopsTimer
  exact fun s => ⟨fun hr => if_neg (not_not.mpr hr), fun hr => exec_of_faultOf _ .lifecycle s (if_pos hr)⟩

/-- Settles O33, by the one check of CLK_DISABLE. -/
theorem clkDisableDisablesTimer : Obligations.ClkDisableDisablesTimer := by
  unfold Obligations.ClkDisableDisablesTimer
  exact fun s => ⟨fun hs => if_neg (not_not.mpr hs), fun hs => exec_of_faultOf _ .lifecycle s (if_pos hs)⟩

/-- CLK_DELETE in DISABLED with no frame in flight deletes the timer (R209). -/
theorem exec_clkDelete_of_disabled (s : State) (hd : s.clk.state = .disabled) (hb : s.seq.busy = false) :
    exec .clkDelete s = .next (answered false { s with clk := { state := .none, alarm := 0, tcount := 0 } }) :=
  (if_neg (not_not.mpr hd)).trans (if_neg (Bool.not_eq_true _ ▸ hb))

/-- Settles O34, by the lifecycle check of CLK_DELETE. -/
theorem clkDeleteDeletesTimer : Obligations.ClkDeleteDeletesTimer := by
  unfold Obligations.ClkDeleteDeletesTimer
  exact fun s => ⟨exec_clkDelete_of_disabled s, fun hd => exec_of_faultOf _ .lifecycle s (if_pos hd)⟩

/-- APPLY of a held command changes nothing (R209, R243). -/
theorem perform_apply_of_held (s : State) (h : held s = true) : perform .apply s = .next s :=
  perform_of_not_enabled .apply s (by simp [enabled, applyEnabled, h])

/-- Settles O35: during the frame the command is held; the frame's last write clears SEQ_BUSY and leaves the command in
the mailbox, so that the APPLY after it is CLK_DELETE's own rule. -/
theorem clkDeleteHoldsDuringFrame : Obligations.ClkDeleteHoldsDuringFrame := by
  unfold Obligations.ClkDeleteHoldsDuringFrame
  intro s hpending hmbox h0 hd hbusy
  have hdec : decode s.cdc.mbox = .ok .clkDelete := hmbox ▸ decode_encode .clkDelete
  refine ⟨perform_apply_of_held s ((held_iff s).mpr ⟨hdec, hd, hbusy⟩), fun hlast => ?_⟩
  have hidle : (seqStep s).seq.busy = false := by rw [seqStep_of_le s hlast.ge]
  have hfree : held (seqStep s) = false := by
    rw [← Bool.not_eq_true, held_iff, hidle]
    simp
  have happly : perform .apply (seqStep s) = exec .clkDelete (seqStep s) :=
    perform_apply_of_port _ (by rwa [seqStep_cdc]) (by rwa [seqStep_err]) hfree _ (by rwa [seqStep_cdc]) rfl
  have hdelete := exec_clkDelete_of_disabled (seqStep s) (by rwa [seqStep_clk]) hidle
  have hrun : runMoves [.seq, .apply] s = .next (answered false
      { seqStep s with clk := { state := .none, alarm := 0, tcount := 0 } }) := by
    simp only [runMoves, perform_seq s hbusy h0, happly, hdelete]
  exact ⟨_, hrun, rfl, rfl, rfl, rfl, (seqStep_err s).trans h0⟩

/-! ### The TICK and the timer's count -/

/-- While the timer runs and the block is not halted, a TICK is admitted outside a frame, and within one where an
overrun is a fault (R205, R206). -/
theorem tickEnabled_of_running (s : State) (hr : s.clk.state = .running) (h0 : s.err = 0) :
    tickEnabled s = (!s.seq.busy || s.cfg.overrun == .fault) := by
  simp [tickEnabled, hr, h0]

/-- Settles O36: outside a frame the TICK is admitted, and BUF_GET leaves the sequencer alone. -/
theorem tickFeedsSequencer : Obligations.TickFeedsSequencer := by
  unfold Obligations.TickFeedsSequencer
  intro s u hr h0 hidle hget
  have he : enabled .tick s = true := (tickEnabled_of_running s hr h0).trans (by simp [hidle])
  obtain ⟨_, v, d, rfl, _⟩ := execBufGet_next s u hget
  exact perform_tick s _ he hidle hget

/-- Settles O37: OVERRUN_MODEL decides whether the TICK is admitted, and an admitted one raises the overrun. -/
theorem tickDuringFrameFollowsModel : Obligations.TickDuringFrameFollowsModel := by
  unfold Obligations.TickDuringFrameFollowsModel
  intro s hbusy
  refine ⟨fun hexcluded => ?_, fun hfault hr h0 => ?_⟩
  · have he : enabled .tick s = false := by simp [enabled, tickEnabled, hbusy, hexcluded]
    exact ⟨he, perform_of_not_enabled .tick s he⟩
  · have he : enabled .tick s = true := (tickEnabled_of_running s hr h0).trans (by simp [hfault])
    simp [perform, he, act, tick, hbusy, raise_of_err_zero _ s h0, FaultCode.code]

/-- A count is enabled while the timer runs and the block is not halted, but for one whose alarm's TICK is not admitted
(R203, R206; log 11). -/
theorem enabled_count_of_running (s : State) (hr : s.clk.state = .running) (h0 : s.err = 0) :
    enabled .count s = (!alarmDue s || tickEnabled s) := by
  simp [enabled, countEnabled, hr, h0]

/-- Settles O38: the count's own branches; where the alarm is due the count is enabled exactly where its TICK is. -/
theorem timerCountReloadsAtAlarm : Obligations.TimerCountReloadsAtAlarm := by
  unfold Obligations.TimerCountReloadsAtAlarm
  intro s
  refine ⟨fun hr h0 hne => ?_, fun hr h0 hdue hidle => ?_, fun hr h0 hdue hbusy => ?_, fun hr => ?_⟩
  · have halarm : alarmDue s = false := beq_false_of_ne hne
    simp [perform, enabled_count_of_running s hr h0, act, count, halarm]
  · have halarm : alarmDue s = true := beq_iff_eq.mpr hdue
    have he : tickEnabled s = true := (tickEnabled_of_running s hr h0).trans (by simp [hidle])
    have he' : enabled .tick { s with clk := { s.clk with tcount := 0 } } = true := he
    simp [perform, enabled_count_of_running s hr h0, he, he', act, count, halarm, hidle]
  · have halarm : alarmDue s = true := beq_iff_eq.mpr hdue
    have he : enabled .count s = enabled .tick s := by
      rw [enabled_count_of_running s hr h0, halarm]
      rfl
    simp [perform, he, act, count, halarm, hbusy]
  · exact perform_of_not_enabled .count s (by simp [enabled, countEnabled, hr])

/-! ### After the timer has stopped -/

/-- No BUF_GET is performed, no sample is latched and no frame is started between these states (R210). -/
def NoTickWork (s t : State) : Prop :=
  t.getData = s.getData ∧ t.seq.data = s.seq.data ∧ (t.seq.busy = true → s.seq.busy = true)

/-- A change that leaves the sequencer and BUF_GET's value alone is no TICK's work. -/
theorem noTickWork_of_eq {s t : State} (hget : t.getData = s.getData) (hseq : t.seq = s.seq) : NoTickWork s t :=
  ⟨hget, by rw [hseq], by rw [hseq]; exact id⟩

/-- No P-port command does a TICK's work (R98, R210). -/
theorem exec_noTickWork (i : Instr) (s t : State) (hp : cOnly i = false) (h : exec i s = .next t) : NoTickWork s t := by
  cases exec_effect i s t h with
  | raised i f s => exact noTickWork_of_eq (raise_getData s f) (raise_seq s f)
  | bufGet s => cases hp
  | dacWrite c d s => cases hp
  | _ => exact ⟨rfl, rfl, id⟩

/-- The SEQ step works on a frame that is there already (R164). -/
theorem seqStep_noTickWork (s : State) (hbusy : s.seq.busy = true) : NoTickWork s (seqStep s) := by
  refine ⟨seqStep_getData s, ?_, fun _ => hbusy⟩
  unfold seqStep
  split <;> rfl

/-- While the timer does not run, no effect of a move but rst_n is a TICK's work (R205, R210). -/
theorem effect_noTickWork (m : Move) (s t : State) (hr : s.clk.state ≠ .running) (hm : m ≠ .rstN)
    (h : Effect m s t) : NoTickWork s t := by
  cases h with
  | reset s => exact absurd rfl hm
  | applied i s t _ _ _ _ hp hx => exact exec_noTickWork i s t hp hx
  | ticked m s n u _ hrun => exact absurd hrun hr
  | wrote s hbusy => exact seqStep_noTickWork s hbusy
  | _ => exact noTickWork_of_eq (by simp) (by simp)

/-- TRACE is unchanged or has grown by (OPEN) or (RELEASE): no group write was made (R161, R162, R170). -/
def NoPinWrite (s t : State) : Prop :=
  t.seq.trace = s.seq.trace ∨ t.seq.trace = s.seq.trace ++ [.opened] ∨ t.seq.trace = s.seq.trace ++ [.released]

/-- No command's own rule makes a group write (R161, R163, R170). -/
theorem exec_noPinWrite (i : Instr) (s t : State) (h : exec i s = .next t) : NoPinWrite s t := by
  cases exec_effect i s t h with
  | raised i f s => exact .inl (by rw [raise_seq])
  | drvOpen s => exact .inr (.inl rfl)
  | drvRelease s => exact .inr (.inr rfl)
  | _ => exact .inl rfl

/-- While no timer exists no frame is in flight, so no effect of a move but rst_n makes a group write (R164, R210). -/
theorem effect_noPinWrite (m : Move) (s t : State) (hnone : s.clk.state = .none) (hlife : LifeInv s) (hm : m ≠ .rstN)
    (h : Effect m s t) : NoPinWrite s t := by
  cases h with
  | reset s => exact absurd rfl hm
  | applied i s t _ _ _ _ _ hx => exact exec_noPinWrite i s t hx
  | ticked m s n u _ hrun => exact absurd (hrun.symm.trans hnone) nofun
  | wrote s hbusy =>
    obtain ⟨_, hframe, _⟩ := hlife
    exact absurd hnone (hframe hbusy)
  | _ => exact .inl (by simp)

/-- Settles O39: by the effects of a move, first for the TICK's work and then for the group writes. -/
theorem noTickWorkAfterStop : Obligations.NoTickWorkAfterStop := by
  unfold Obligations.NoTickWorkAfterStop
  intro m s t hr hm h
  rcases perform_effect m s t h with he | ⟨_, rfl⟩
  · obtain ⟨hget, hdata, hbusy⟩ := effect_noTickWork m s t hr hm he
    exact ⟨hget, hdata, hbusy, fun hnone hlife => effect_noPinWrite m s t hnone hlife hm he⟩
  · exact ⟨rfl, rfl, id, fun _ _ => .inl rfl⟩

end Sys2Proof.Machine

/-! SUPPORT. The statements of 43_cdc_sync.md: ISSUE, APPLY, COMPLETE and SYNC, the stability of the mailbox, and
RS_SYNC, which no rule reads. -/

namespace Sys2Proof.Machine

/-! ### What a move can do to the crossing -/

/-- What a move can make of the crossing: one constructor for each rule that writes an element of it. -/
inductive CdcEffect (s t : State) : Move → Prop where
  /-- rst_n (R340). -/
  | reset : t.cdc = (State.resetWith s.cfg).cdc → CdcEffect s t .rstN
  /-- ISSUE, of a word offered or of a program's command (R242). -/
  | issued (m w) : s.cdc.phase = .idle →
      t.cdc = { s.cdc with mbox := w, phase := .pending, reqT := !s.cdc.reqT } → CdcEffect s t m
  /-- APPLY of a command that completes (R243, R249). -/
  | answered (v) : s.cdc.phase = .pending → s.err = 0 →
      t.cdc = { s.cdc with resp := v, phase := .done, ackT := !s.cdc.ackT } → CdcEffect s t .apply
  /-- COMPLETE, without and with a program (R244; RS_SYNC as in `catchUp`, log 38). -/
  | completed (m) : (m = .complete ∨ m = .host) → s.cdc.phase = .done →
      t.cdc = { s.cdc with phase := .idle, rsSync := if quiet s then s.buf.rs else s.cdc.rsSync } → CdcEffect s t m
  /-- SYNC (R250). -/
  | synced : t.cdc = { s.cdc with rsSync := s.buf.rs } → CdcEffect s t .sync
  /-- Every other step, and every move that holds. -/
  | kept (m) : t.cdc = s.cdc → CdcEffect s t m

/-- An effect of a move does one of the listed things to the crossing. -/
theorem effect_cdcEffect (m : Move) (s t : State) (h : Effect m s t) : CdcEffect s t m := by
  cases h with
  | reset s => exact .reset (rstN_cdc s)
  | issued w s hidle => exact .issued _ w hidle (issue_cdc s w)
  | hostIssued i s _ hidle => exact .issued _ (encode i) hidle (hostIssue_cdc s i)
  | completed s hdone => exact .completed _ (.inl rfl) hdone (by simp)
  | hostCompleted s _ hdone => exact .completed _ (.inr rfl) hdone (hostComplete_cdc s)
  | applied i s t hpending h0 _ _ hp hx =>
    rcases exec_port_next i s t hp hx with ⟨v, b, q, c, rfl⟩ | ⟨f, rfl⟩ | ⟨_, _, rfl⟩
    · exact .answered v hpending h0 rfl
    · exact .kept _ (raise_cdc s f)
    · exact .kept _ rfl
  | ticked m s n u _ _ _ _ hu =>
    obtain ⟨_, v, d, rfl, _⟩ := execBufGet_next _ u hu
    exact .kept _ rfl
  | synced s => exact .synced (sync_cdc s)
  | _ => exact .kept _ (by simp)

/-- A move that has a next state does one of the listed things to the crossing. -/
theorem perform_cdcEffect (m : Move) (s t : State) (h : perform m s = .next t) : CdcEffect s t m := by
  rcases perform_effect m s t h with he | ⟨_, rfl⟩
  · exact effect_cdcEffect m s t he
  · exact .kept m rfl

/-! ### ISSUE and COMPLETE -/

/-- Settles O40: in IDLE the HOST's ISSUE is enabled, and in every other phase none is. -/
theorem issueFillsMailbox : Obligations.IssueFillsMailbox := by
  unfold Obligations.IssueFillsMailbox
  refine ⟨fun s w => ⟨fun hidle hfree => ?_, fun hne => ?_⟩, fun s i ha hc => ⟨fun hidle => ?_, fun hne => ?_⟩⟩
  · simp [perform, enabled, hostFree, act, issue, hidle, hfree]
  · exact perform_of_not_enabled _ s (by simp [enabled, hne])
  · exact ⟨_, perform_host_issue s i ha hidle hc⟩
  · exact perform_of_not_enabled _ s (by simp [enabled, hostEnabled, ha, hc, hne])

/-- What a COMPLETE takes with it changes RS_SYNC only, and only where no timer exists and no frame is in flight
(log 38). -/
theorem catchUp_eq (s : State) : catchUp s = s.withRsSync
    (if s.clk.state = .none ∧ s.seq.busy = false then s.buf.rs else s.cdc.rsSync) := by
  unfold catchUp
  simp only [quiet_iff]
  split <;> rfl

/-- Settles O41: in DONE the HOST's COMPLETE is enabled and takes RESP, and in every other phase none is. -/
theorem completeHandsResponse : Obligations.CompleteHandsResponse := by
  unfold Obligations.CompleteHandsResponse
  intro s copy
  refine ⟨fun hdone hfree => ?_, fun hne => ?_, fun ha hdone => ⟨s.producer.stage.answered s.cdc.resp, ?_⟩,
    perform_host_waits s⟩
  · have he : enabled .complete s = true := by simp [enabled, hostFree, hdone, hfree]
    rw [perform, if_pos he, act, catchUp_eq]
    rfl
  · exact perform_of_not_enabled _ s (by simp [enabled, hne])
  · rw [perform_host_complete s ha hdone, hostComplete, catchUp_eq]
    rfl

/-! ### APPLY -/

/-- A P-port command's rule completes with its own response and leaves ERR and the HOST alone, or raises a fault, or is
a CLK_DELETE that holds for a frame (R99, R243). -/
theorem exec_port_response (i : Instr) (s t : State) (hp : cOnly i = false) (h : exec i s = .next t) :
    (∃ u, t = answered (decide (i = .bufPoll) && s.buf.nd) u ∧ u.cdc = s.cdc ∧ u.err = s.err ∧
      u.producer = s.producer) ∨
    (∃ f : FaultCode, t = s.raise f) ∨ (i = .clkDelete ∧ s.seq.busy = true ∧ t = s) := by
  cases exec_effect i s t h with
  | raised i f s => exact .inr (.inl ⟨f, rfl⟩)
  | bufGet s => cases hp
  | dacWrite c d s => cases hp
  | clkDeleteHeld s _ hbusy => exact .inr (.inr ⟨rfl, hbusy, rfl⟩)
  | _ => exact .inl ⟨_, rfl, rfl, rfl, rfl⟩

/-- Settles O42: a word that is no P-port command faults, a held one holds, and any other does what its own rule
does. -/
theorem applyWholeOrNotAtAll : Obligations.ApplyWholeOrNotAtAll := by
  unfold Obligations.ApplyWholeOrNotAtAll
  intro s hpending h0
  by_cases hheld : held s = true
  · obtain ⟨hd, _, hbusy⟩ := (held_iff s).mp hheld
    exact ⟨s, perform_apply_of_held s hheld, .inr (.inr ⟨rfl, (encodeOfDecode _ _ hd).symm, hbusy⟩)⟩
  have hfree : held s = false := Bool.eq_false_iff.mpr hheld
  cases hd : decode s.cdc.mbox with
  | error r =>
    exact ⟨_, perform_apply_of_error s hpending h0 r hd, .inr (.inl ⟨FaultCode.illegalCmd.code_ne_zero, rfl⟩)⟩
  | ok i =>
    cases hp : cOnly i with
    | true =>
      exact ⟨_, perform_apply_of_cOnly s hpending h0 i hd hp, .inr (.inl ⟨FaultCode.portViolation.code_ne_zero, rfl⟩)⟩
    | false =>
      obtain ⟨t, hx⟩ := exec_port_exists i s hp
      refine ⟨t, (perform_apply_of_port s hpending h0 hfree i hd hp).trans hx, ?_⟩
      rcases exec_port_response i s t hp hx with ⟨u, rfl, hcdc, herr, hhost⟩ | ⟨f, rfl⟩ | ⟨rfl, hbusy, rfl⟩
      · exact .inl ⟨i, rfl, hp, hx, by rw [answered, hcdc], herr.trans h0, hhost⟩
      · exact .inr (.inl (by rw [raise_of_err_zero f s h0]; exact ⟨f.code_ne_zero, rfl⟩))
      · exact .inr (.inr ⟨rfl, (encodeOfDecode _ _ hd).symm, hbusy⟩)

/-- Settles O56: the move's own rule, from the state with the move taken off the schedule; a held CLK_DELETE's own rule
holds as APPLY does. -/
theorem stepRunsDecodedCommand : Obligations.StepRunsDecodedCommand := by
  unfold Obligations.StepRunsDecodedCommand
  constructor
  · intro s i rest hvalid hsched hpending h0 hd hp
    have hstep : step s = perform .apply { s with schedule := rest } := by
      simp [step, stepMove, hvalid, nextMove, takeMove, hsched]
    rw [hstep]
    by_cases hheld : held { s with schedule := rest } = true
    · obtain ⟨hdel, hdis, hbusy⟩ := (held_iff _).mp hheld
      obtain rfl : i = .clkDelete := Except.ok.inj (hd.symm.trans hdel)
      rw [perform_apply_of_held _ hheld]
      simp only [exec, execClkDelete]
      rw [if_neg (not_not.mpr hdis), if_pos hbusy]
    · exact perform_apply_of_port { s with schedule := rest } hpending h0 (Bool.eq_false_iff.mpr hheld) i hd hp
  · intro s t rest hvalid hsched hr h0 hidle hget
    have hstep : step s = perform .tick { s with schedule := rest } := by
      simp [step, stepMove, hvalid, nextMove, takeMove, hsched]
    have he : enabled .tick { s with schedule := rest } = true :=
      (tickEnabled_of_running _ hr h0).trans (by simp [hidle])
    rw [hstep, perform_tick _ t he hidle hget]
    simp [exec, execDacWrite]

/-! ### The mailbox between ISSUE and COMPLETE -/

/-- Settles O43: of the things a move can do to the crossing, only rst_n and ISSUE write MBOX. -/
theorem mailboxStableUntilComplete : Obligations.MailboxStableUntilComplete := by
  unfold Obligations.MailboxStableUntilComplete
  intro m s t h hne
  cases perform_cdcEffect m s t h with
  | reset => exact .inl rfl
  | issued m w hidle hcdc => exact .inr ⟨hidle, by rw [hcdc]⟩
  | answered v _ _ hcdc => exact absurd (by rw [hcdc]) hne
  | completed m _ _ hcdc => exact absurd (by rw [hcdc]) hne
  | synced hcdc => exact absurd (by rw [hcdc]) hne
  | kept m hcdc => exact absurd (by rw [hcdc]) hne

/-- In a halted block no move but rst_n changes ERR: those that can raise a fault need ERR = 0 (R302). -/
theorem effect_err_of_halted (m : Move) (s t : State) (hm : m ≠ .rstN) (herr : s.err ≠ 0) (h : Effect m s t) :
    t.err = s.err := by
  cases h with
  | reset s => exact absurd rfl hm
  | applied i s t _ h0 => exact absurd h0 herr
  | rejected f s _ h0 => exact absurd h0 herr
  | overrun m s _ _ h0 => exact absurd h0 herr
  | ticked m s n u _ _ h0 => exact absurd h0 herr
  | _ => simp

/-- In a halted block no move but rst_n takes the mailbox out of PENDING: APPLY needs ERR = 0, and ISSUE and COMPLETE
another phase (R251). -/
theorem perform_pending_of_halted (m : Move) (s t : State) (hm : m ≠ .rstN) (herr : s.err ≠ 0)
    (hpending : s.cdc.phase = .pending) (h : perform m s = .next t) : t.cdc.phase = .pending := by
  cases perform_cdcEffect m s t h with
  | reset => exact absurd rfl hm
  | issued m w hidle => exact absurd (hpending.symm.trans hidle) nofun
  | answered v _ h0 => exact absurd h0 herr
  | completed m _ hdone => exact absurd (hpending.symm.trans hdone) nofun
  | synced hcdc => rwa [hcdc]
  | kept m hcdc => rwa [hcdc]

/-- Settles O45: ERR and the phase stay, and in PENDING neither ISSUE nor COMPLETE is enabled. -/
theorem haltedCommandNeverCompletes : Obligations.HaltedCommandNeverCompletes := by
  unfold Obligations.HaltedCommandNeverCompletes
  refine ⟨fun s herr => ⟨?_, rfl⟩, fun m s t herr hpending hm h => ?_⟩
  · rw [enabled, applyEnabled, beq_false_of_ne herr, Bool.and_false, Bool.false_and]
  have hphase := perform_pending_of_halted m s t hm herr hpending h
  refine ⟨hphase, ?_, fun w => by simp [enabled, hphase], by simp [enabled, hphase]⟩
  rcases perform_effect m s t h with he | ⟨_, rfl⟩
  · rwa [effect_err_of_halted m s t hm herr he]
  · exact herr

/-! ### RS_SYNC -/

section WithRsSync

variable (x y : Slot) (s : State)

@[simp] theorem withRsSync_cfg : (s.withRsSync x).cfg = s.cfg := rfl
@[simp] theorem withRsSync_buf : (s.withRsSync x).buf = s.buf := rfl
@[simp] theorem withRsSync_draws : (s.withRsSync x).draws = s.draws := rfl
@[simp] theorem withRsSync_producer : (s.withRsSync x).producer = s.producer := rfl

/-- Of two values given to RS_SYNC the later one stands. -/
theorem mapNext_withRsSync (o : Outcome) :
    Outcome.mapNext (State.withRsSync y) (Outcome.mapNext (State.withRsSync x) o) =
      Outcome.mapNext (State.withRsSync y) o := by
  cases o with
  | _ => rfl

/-- No command's own rule reads or writes RS_SYNC: its checks and its change are those of the other units (R250). -/
theorem exec_withRsSync (i : Instr) :
    exec i (s.withRsSync x) = Outcome.mapNext (State.withRsSync x) (exec i s) := by
  cases i with
  | bufPut c d => rfl
  | bufPoll => rfl
  | dacWrite c d => rfl
  | bufGet =>
    simp only [exec, execBufGet, apply_ite (Outcome.mapNext (State.withRsSync x))]
    refine if_congr Iff.rfl ?_ rfl
    simp only [withRsSync_buf, withRsSync_cfg]
    cases memRead s.buf.swapIfExhausted.slots
        (slotAddr s.cfg.bufN s.buf.swapIfExhausted.rs s.buf.swapIfExhausted.rp) with
    | _ => rfl
  | _ =>
    simp only [exec, execBufReset, execDrvOpen, execDrvRelease, execClkStart, execClkStop, execClkDisable,
      execClkDelete, raise_eq_faulted, apply_ite (Outcome.mapNext (State.withRsSync x))]
    rfl

/-- APPLY reads MBOX only of the crossing (R97, R243, R250). -/
theorem apply_withRsSync : apply (s.withRsSync x) = Outcome.mapNext (State.withRsSync x) (apply s) := by
  have hmbox : (s.withRsSync x).cdc.mbox = s.cdc.mbox := rfl
  simp only [apply, applyWord, hmbox, raise_eq_faulted, exec_withRsSync]
  cases decode s.cdc.mbox with
  | error r => rfl
  | ok i =>
    simp only [apply_ite (Outcome.mapNext (State.withRsSync x))]
    rfl

/-- A TICK does not read RS_SYNC (R205, R250). -/
theorem tick_withRsSync : tick (s.withRsSync x) = Outcome.mapNext (State.withRsSync x) (tick s) := by
  have hget : execBufGet (s.withRsSync x) = Outcome.mapNext (State.withRsSync x) (execBufGet s) :=
    exec_withRsSync x s .bufGet
  simp only [tick, hget, raise_eq_faulted, apply_ite (Outcome.mapNext (State.withRsSync x))]
  refine if_congr Iff.rfl rfl ?_
  cases execBufGet s with
  | _ => rfl

/-- A count of the timer does not read RS_SYNC (R203, R250). -/
theorem count_withRsSync : count (s.withRsSync x) = Outcome.mapNext (State.withRsSync x) (count s) := by
  simp only [count, apply_ite (Outcome.mapNext (State.withRsSync x))]
  refine if_congr Iff.rfl (if_congr Iff.rfl (tick_withRsSync x s) ?_) rfl
  exact tick_withRsSync x { s with clk := { s.clk with tcount := 0 } }

/-- The SEQ step reads the sequencer only (R164, R250). -/
theorem seqStep_withRsSync : seqStep (s.withRsSync x) = (seqStep s).withRsSync x := by
  simp only [seqStep, apply_ite (State.withRsSync x)]
  rfl

/-- The beginning of a program does not read RS_SYNC (R250, R275). -/
theorem hostStart_withRsSync (g : Program) :
    hostStart g (s.withRsSync x) = Outcome.mapNext (State.withRsSync x) (hostStart g s) := by
  cases g with
  | free => rfl
  | script lines =>
    simp only [hostStart, apply_ite (Outcome.mapNext (State.withRsSync x))]
    rfl
  | track rate calq st =>
    simp only [hostStart, apply_ite (Outcome.mapNext (State.withRsSync x))]
    rfl

/-- A COMPLETE writes RS_SYNC or keeps it, and reads it for nothing else (R244, R250; log 38). -/
theorem complete_withRsSync :
    (complete (catchUp (s.withRsSync x))).withRsSync y = (complete (catchUp s)).withRsSync y := by
  simp only [catchUp_eq]
  rfl

/-- A step of the HOST's program reads RS_SYNC at most to keep it (R250). -/
theorem hostStep_withRsSync : (hostStep (s.withRsSync x)).withRsSync y = (hostStep s).withRsSync y := by
  simp only [hostStep, apply_ite (State.withRsSync y)]
  refine if_congr Iff.rfl ?_ ?_
  · simp only [hostComplete, catchUp_eq]
    rfl
  · simp only [withRsSync_producer, withRsSync_draws]
    cases s.producer.nextCommand s.draws with
    | some i => rfl
    | none =>
      cases s.producer.silent s.draws with
      | _ => rfl

/-- What an enabled move does depends on RS_SYNC in RS_SYNC only (R250). -/
theorem act_withRsSync (m : Move) : Outcome.mapNext (State.withRsSync y) (act m (s.withRsSync x)) =
    Outcome.mapNext (State.withRsSync y) (act m s) := by
  cases m with
  | complete => exact congrArg Host.Outcome.next (complete_withRsSync x y s)
  | start g => rw [act, hostStart_withRsSync, mapNext_withRsSync]; rfl
  | host => exact congrArg Host.Outcome.next (hostStep_withRsSync x y s)
  | apply => rw [act, apply_withRsSync, mapNext_withRsSync]; rfl
  | count => rw [act, count_withRsSync, mapNext_withRsSync]; rfl
  | tick => rw [act, tick_withRsSync, mapNext_withRsSync]; rfl
  | seq => rw [act, seqStep_withRsSync]; rfl
  | _ => rfl

/-- No move but SYNC looks at RS_SYNC to see whether it is enabled (R250). -/
theorem enabled_withRsSync (m : Move) (hm : m ≠ .sync) : enabled m (s.withRsSync x) = enabled m s := by
  cases m with
  | sync => exact absurd rfl hm
  | _ => rfl

/-- A SYNC leaves RS in RS_SYNC, whether the copy lagged or not (R250). -/
theorem perform_sync : perform .sync s = .next (s.withRsSync s.buf.rs) := by
  by_cases h : s.cdc.rsSync = s.buf.rs
  · rw [perform_of_not_enabled _ s (by simp [enabled, h]), ← h]
    rfl
  · simp [perform, enabled, h, act, sync, State.withRsSync]

/-- Two states that differ in RS_SYNC only make every move alike (R250). -/
theorem perform_withRsSync (m : Move) : Outcome.mapNext (State.withRsSync y) (perform m (s.withRsSync x)) =
    Outcome.mapNext (State.withRsSync y) (perform m s) := by
  by_cases hm : m = .sync
  · rw [hm, perform_sync, perform_sync]
    rfl
  · rw [perform, perform, enabled_withRsSync x s m hm]
    split
    · exact act_withRsSync x y s m
    · rfl

end WithRsSync

/-- A move but rst_n that changes RS_SYNC makes it RS, and is a SYNC or a COMPLETE with no timer and no frame in flight
(R250; log 38). -/
theorem perform_rsSync_changed (m : Move) (s t : State) (hm : m ≠ .rstN) (h : perform m s = .next t)
    (hne : t.cdc.rsSync ≠ s.cdc.rsSync) : t.cdc.rsSync = s.buf.rs ∧ (m = .sync ∨
      ((m = .complete ∨ m = .host) ∧ s.cdc.phase = .done ∧ s.clk.state = .none ∧ s.seq.busy = false)) := by
  cases perform_cdcEffect m s t h with
  | reset => exact absurd rfl hm
  | issued m w _ hcdc => exact absurd (by rw [hcdc]) hne
  | answered v _ _ hcdc => exact absurd (by rw [hcdc]) hne
  | completed m hcomplete hdone hcdc =>
    have hquiet : quiet s = true := by
      by_contra hq
      exact hne (by simp [hcdc, hq])
    exact ⟨by simp [hcdc, hquiet], .inr ⟨hcomplete, hdone, (quiet_iff s).mp hquiet⟩⟩
  | synced hcdc => exact ⟨by rw [hcdc], .inl rfl⟩
  | kept m hcdc => exact absurd (by rw [hcdc]) hne

/-- Settles O44: the two states' moves are compared one by one, and the writers of RS_SYNC are among the things a move
can do to the crossing. -/
theorem rsSyncNeverRead : Obligations.RsSyncNeverRead := by
  unfold Obligations.RsSyncNeverRead
  exact ⟨fun m s x y => perform_withRsSync x y s m, perform_rsSync_changed, perform_sync⟩

end Sys2Proof.Machine

/-! SUPPORT. The statements of 44_host_feedloop.md: what the HOST's volume shift computes, and the refusal of a stream
that has not two channels. -/

namespace Sys2Proof.Machine

/-! ### The volume shift (R274) -/

/-- A shift of 0 passes the raw sample through. -/
@[simp] theorem shiftRaw_zero (r : Raw) : shiftRaw 0 r = r := rfl

/-- A positive shift divides the raw sample by a power of two, rounding down; the amount is capped at 31. -/
theorem toInt_shiftRaw_of_pos (shift : Int) (r : Raw) (h : 0 < shift) :
    (shiftRaw shift r).toInt = r.toInt / 2 ^ (min shift.toNat 31) := by
  rw [shiftRaw, if_neg (by omega), if_pos h, BitVec.toInt_sshiftRight, Int.shiftRight_eq_div_pow]
  norm_cast

/-- A negative shift of at most 31 multiplies the raw sample by a power of two, modulo 2^32. -/
theorem toNat_shiftRaw_of_neg (shift : Int) (r : Raw) (h : shift < 0) (hsize : -shift ≤ 31) :
    (shiftRaw shift r).toNat = (r.toNat * 2 ^ (-shift).toNat) % 2 ^ 32 := by
  rw [shiftRaw, if_neg (by omega), if_neg (by omega), if_pos (by omega), BitVec.toNat_shiftLeft, Nat.shiftLeft_eq]

/-- A negative shift of 32 or more leaves nothing of the raw sample. -/
theorem shiftRaw_of_lt_neg (shift : Int) (r : Raw) (h : 31 < -shift) : shiftRaw shift r = 0 := by
  rw [shiftRaw, if_neg (by omega), if_neg (by omega), if_neg (by omega)]

/-- Settles O58: the shifted raw sample is the value that each sign of the shift pins down. -/
theorem volumeShiftArithmetic : Obligations.VolumeShiftArithmetic := by
  unfold Obligations.VolumeShiftArithmetic
  intro depth vol r shift
  refine ⟨shiftRaw shift r, rfl, fun hzero => ?_, toInt_shiftRaw_of_pos shift r, toNat_shiftRaw_of_neg shift r,
    fun _ => shiftRaw_of_lt_neg shift r⟩
  rw [hzero, shiftRaw_zero]

/-! ### The number of channels (R279) -/

/-- A HOST that begins a track of a stream without two channels refuses it by name. -/
theorem hostStart_track_of_channelCount_ne (rate calq : BitVec 32) (st : Stream) (s : State)
    (h : st.channelCount ≠ 2) : hostStart (.track rate calq (some st)) s = .refused .channelCountNotTwo := by
  simp [hostStart, Stream.wf, h]

/-- Settles O60: START is enabled exactly where the HOST may begin a program, and its effect is the refusal. -/
theorem streamOfOtherChannelCountRefused : Obligations.StreamOfOtherChannelCountRefused := by
  unfold Obligations.StreamOfOtherChannelCountRefused
  intro s rate calq st hstart hcount
  calc perform (.start (.track rate calq (some st))) s
      = hostStart (.track rate calq (some st)) s := if_pos hstart
    _ = .refused .channelCountNotTwo := hostStart_track_of_channelCount_ne rate calq st s hcount

end Sys2Proof.Machine

/-! SUPPORT. The statements of 60_exceptions.md: what a fault changes, and what a halted block does. -/

namespace Sys2Proof.Machine

/-! ### What raises a fault -/

/-- In a halted block no second fault is raised (R302). -/
theorem raise_of_err_ne_zero (f : FaultCode) (s : State) (herr : s.err ≠ 0) : s.raise f = s := if_neg herr

/-- A command's own rule leaves ERR alone, or raises a fault and does nothing else (R302, R303). -/
theorem exec_keeps_err_or_raises (i : Instr) (s t : State) (h : exec i s = .next t) :
    t.err = s.err ∨ ∃ f : FaultCode, t = s.raise f := by
  cases exec_effect i s t h with
  | raised i f s => exact .inr ⟨f, rfl⟩
  | _ => exact .inl rfl

/-- An effect of a move but rst_n leaves ERR alone, or raises a fault in a block that is not halted and does nothing
else (R302, R303). -/
theorem effect_keeps_err_or_raises (m : Move) (s t : State) (hm : m ≠ .rstN) (h : Effect m s t) :
    t.err = s.err ∨ (s.err = 0 ∧ ∃ f : FaultCode, t = s.raise f) := by
  cases h with
  | reset s => exact absurd rfl hm
  | applied i s t _ h0 _ _ _ hx => exact (exec_keeps_err_or_raises i s t hx).imp_right (⟨h0, ·⟩)
  | rejected f s _ h0 => exact .inr ⟨h0, f, rfl⟩
  | overrun m s _ _ h0 => exact .inr ⟨h0, _, rfl⟩
  | ticked m s n u _ _ _ _ hu =>
    obtain ⟨_, v, d, rfl, _⟩ := execBufGet_next _ u hu
    exact .inl rfl
  | _ => exact .inl (by simp)

/-- Settles O46: a move that changes ERR raises a fault, which writes ERR only. -/
theorem faultChangesOnlyErr : Obligations.FaultChangesOnlyErr := by
  unfold Obligations.FaultChangesOnlyErr
  intro m s t h hne
  refine or_iff_not_imp_left.mpr fun hm => ?_
  rcases perform_effect m s t h with he | ⟨_, rfl⟩
  · rcases effect_keeps_err_or_raises m s t hm he with hsame | ⟨h0, f, rfl⟩
    · exact absurd hsame hne
    · rw [raise_of_err_zero f s h0]
      exact ⟨h0, rfl⟩
  · exact absurd rfl hne

/-! ### The halted block -/

/-- In a halted block APPLY, TICK, the timer's count and SEQ are not enabled (R302; the count: log 11). -/
theorem not_enabled_of_halted (m : Move) (s : State) (herr : s.err ≠ 0)
    (hm : m = .apply ∨ m = .tick ∨ m = .count ∨ m = .seq) : enabled m s = false := by
  have hhalt : (s.err == 0) = false := beq_false_of_ne herr
  rcases hm with rfl | rfl | rfl | rfl
  · rw [enabled, applyEnabled, hhalt, Bool.and_false, Bool.false_and]
  · rw [enabled, tickEnabled, hhalt, Bool.and_false, Bool.false_and]
  · rw [enabled, countEnabled, hhalt, Bool.and_false, Bool.false_and]
  · rw [enabled, hhalt, Bool.and_false]

/-- In a halted block no command's own rule changes ERR (R304). -/
theorem exec_err_of_halted (i : Instr) (s t : State) (herr : s.err ≠ 0) (h : exec i s = .next t) : t.err = s.err := by
  rcases exec_keeps_err_or_raises i s t h with hsame | ⟨f, rfl⟩
  · exact hsame
  · rw [raise_of_err_ne_zero f s herr]

/-- Settles O47: neither the effects of a move nor a command's own rule change ERR in a halted block, and the four moves
it halts are not enabled. -/
theorem errIsSticky : Obligations.ErrIsSticky := by
  unfold Obligations.ErrIsSticky
  refine ⟨fun m s t herr hm h => ?_, exec_err_of_halted, fun m s herr hen => ?_⟩
  · rcases perform_effect m s t h with he | ⟨_, rfl⟩
    · exact effect_err_of_halted m s t hm herr he
    · rfl
  · have hnot : ¬ (m = .apply ∨ m = .tick ∨ m = .count ∨ m = .seq) := fun hhalts =>
      absurd ((not_enabled_of_halted m s herr hhalts).symm.trans hen) nofun
    simpa only [not_or] using hnot

/-- In a halted block no effect of a move but rst_n touches the buffer, the sequencer or the clock: APPLY, TICK, the
timer's count and SEQ, which write them, need ERR = 0 (R302). -/
theorem effect_units_of_halted (m : Move) (s t : State) (hm : m ≠ .rstN) (herr : s.err ≠ 0) (h : Effect m s t) :
    t.buf = s.buf ∧ t.seq = s.seq ∧ t.clk = s.clk := by
  cases h with
  | reset s => exact absurd rfl hm
  | applied i s t _ h0 => exact absurd h0 herr
  | rejected f s _ h0 => exact absurd h0 herr
  | counted s _ h0 => exact absurd h0 herr
  | overrun m s _ _ h0 => exact absurd h0 herr
  | ticked m s n u _ _ h0 => exact absurd h0 herr
  | wrote s _ h0 => exact absurd h0 herr
  | _ => simp

/-- In a halted block no move but rst_n completes a command, so that ACK_T and RESP stay (R302, R243). -/
theorem perform_response_of_halted (m : Move) (s t : State) (hm : m ≠ .rstN) (herr : s.err ≠ 0)
    (h : perform m s = .next t) : t.cdc.ackT = s.cdc.ackT ∧ t.cdc.resp = s.cdc.resp := by
  cases perform_cdcEffect m s t h with
  | reset => exact absurd rfl hm
  | answered v _ h0 => exact absurd h0 herr
  | issued m w _ hcdc | completed m _ _ hcdc | synced hcdc | kept m hcdc => exact hcdc ▸ ⟨rfl, rfl⟩

/-- Settles O48: the four halted moves are not enabled, no other move but rst_n touches a unit of the block, and the
mailbox word is written at ISSUE only. -/
theorem haltedBlockIsInert : Obligations.HaltedBlockIsInert := by
  unfold Obligations.HaltedBlockIsInert
  refine ⟨fun s herr => ?_, fun m s t herr hm h => ?_⟩
  · have hold (m : Move) (hhalts : m = .apply ∨ m = .tick ∨ m = .count ∨ m = .seq) : perform m s = .next s :=
      perform_of_not_enabled m s (not_enabled_of_halted m s herr hhalts)
    exact ⟨hold .apply (by simp), hold .tick (by simp), hold .count (by simp), hold .seq (by simp)⟩
  have hunits : t.buf = s.buf ∧ t.seq = s.seq ∧ t.clk = s.clk := by
    rcases perform_effect m s t h with he | ⟨_, rfl⟩
    · exact effect_units_of_halted m s t hm herr he
    · exact ⟨rfl, rfl, rfl⟩
  obtain ⟨hbuf, hseq, hclk⟩ := hunits
  obtain ⟨hack, hresp⟩ := perform_response_of_halted m s t hm herr h
  have hmbox : t.cdc.mbox = s.cdc.mbox ∨ (s.cdc.phase = .idle ∧ t.cdc.phase = .pending) :=
    or_iff_not_imp_left.mpr fun hne => (mailboxStableUntilComplete m s t h hne).resolve_left hm
  exact ⟨hbuf, hseq, hclk, hack, hresp, hmbox⟩

end Sys2Proof.Machine

/-! SUPPORT. The statements of 70_reset_and_hazards.md: what rst_n makes of a state, and that a frame ends on every run
weakly fair to SEQ. -/

namespace Sys2Proof.Machine

/-! ### rst_n (R340) -/

/-- rst_n is enabled in every state, a halted one included. -/
theorem perform_rstN (s : State) : perform .rstN s = .next s.rstN := rfl

/-- Settles O49: the next state is `State.rstN`, every unit of which is that of `State.resetWith`. -/
theorem rstNResetsBlock : Obligations.RstNResetsBlock := by
  unfold Obligations.RstNResetsBlock
  intro s
  have hunwritten : ∀ a, memRead s.rstN.buf.slots a = none := memRead_nil
  exact ⟨s.rstN, perform_rstN s, rfl, hunwritten, rfl, rfl, rfl, rfl, rfl, rfl, rfl, rfl, rfl, rfl, rfl, rfl, rfl⟩

/-! ### A frame in flight makes progress (R164) -/

/-- No P-port command moves SEQ_STEP (R98, R164). -/
theorem exec_seq_step (i : Instr) (s t : State) (hp : cOnly i = false) (h : exec i s = .next t) :
    t.seq.step = s.seq.step := by
  cases exec_effect i s t h with
  | raised i f s => rw [raise_seq]
  | dacWrite c d s => cases hp
  | _ => rfl

/-- A SEQ step that leaves the frame in flight was not its last, and steps SEQ_STEP (R164). -/
theorem seqStep_step_of_busy (s : State) (hbusy : (seqStep s).seq.busy = true) :
    s.seq.step < 64 ∧ (seqStep s).seq.step = s.seq.step + 1 := by
  rcases Nat.lt_or_ge s.seq.step 64 with hlt | hge
  · exact ⟨hlt, by rw [seqStep_of_lt s hlt]⟩
  · rw [seqStep_of_le s hge] at hbusy
    cases hbusy

/-- No move takes a frame that stays in flight back to an earlier write: rst_n ends the frame, and a TICK starts none
during one (R164, R206). -/
theorem perform_seq_step_le (m : Move) (s t : State) (h : perform m s = .next t) (hs : s.seq.busy = true)
    (ht : t.seq.busy = true) : s.seq.step ≤ t.seq.step := by
  rcases perform_effect m s t h with he | ⟨_, rfl⟩
  · cases he with
    | reset s => cases ht
    | applied i s t _ _ _ _ hp hx => exact (exec_seq_step i s t hp hx).ge
    | ticked m s n u _ _ _ hidle => exact absurd (hs.symm.trans hidle) nofun
    | wrote s =>
      obtain ⟨_, hstep⟩ := seqStep_step_of_busy s ht
      exact hstep ▸ Nat.le_succ _
    | _ => simp
  · exact le_rfl

/-! ### On a run weakly fair to SEQ every frame ends (R359) -/

/-- From point n of a run on, a frame is in flight and the block has not halted. -/
def InFlightFrom (σ : Nat → State) (n : Nat) : Prop := ∀ k, n ≤ k → (σ k).seq.busy = true ∧ (σ k).err = 0

section FairRun

variable {μ : Nat → Move} {σ : Nat → State} {n : Nat} (hrun : IsRun μ σ) (hfair : WeaklyFair .seq μ σ)
  (hflight : InFlightFrom σ n)

include hrun hflight

/-- While the frame stays in flight SEQ_STEP never falls. -/
theorem seq_step_mono {i j : Nat} (hi : n ≤ i) (hij : i ≤ j) : (σ i).seq.step ≤ (σ j).seq.step := by
  induction j, hij using Nat.le_induction with
  | base => exact le_rfl
  | succ j hij ih =>
    obtain ⟨hbusy, _⟩ := hflight j (hi.trans hij)
    obtain ⟨hbusy', _⟩ := hflight (j + 1) (by omega)
    exact ih.trans (perform_seq_step_le (μ j) (σ j) (σ (j + 1)) (hrun j) hbusy hbusy')

include hfair

/-- SEQ stays enabled, so after any point it is taken, and that SEQ step is not the frame's last. -/
theorem exists_seq_taken (i : Nat) (hi : n ≤ i) :
    ∃ k, i ≤ k ∧ (σ k).seq.step < 64 ∧ (σ (k + 1)).seq.step = (σ k).seq.step + 1 := by
  have henabled : ∀ k, i ≤ k → enabled .seq (σ k) = true := fun k hk => by
    obtain ⟨hbusy, h0⟩ := hflight k (hi.trans hk)
    simp [enabled, hbusy, h0]
  obtain ⟨k, hk, htaken⟩ := hfair i henabled
  obtain ⟨hbusy, h0⟩ := hflight k (hi.trans hk)
  obtain ⟨hbusy', _⟩ := hflight (k + 1) (by omega)
  have hmove : perform .seq (σ k) = .next (σ (k + 1)) := htaken ▸ hrun k
  have hnext : seqStep (σ k) = σ (k + 1) := Host.Outcome.next.inj ((perform_seq (σ k) hbusy h0).symm.trans hmove)
  have hadvance := seqStep_step_of_busy (σ k) (hnext ▸ hbusy')
  exact ⟨k, hk, hnext ▸ hadvance⟩

/-- A frame that stayed in flight for ever would come to any number of writes. -/
theorem exists_seq_step_ge (j : Nat) : ∃ k, n ≤ k ∧ j ≤ (σ k).seq.step := by
  induction j with
  | zero => exact ⟨n, le_rfl, Nat.zero_le _⟩
  | succ j ih =>
    obtain ⟨i, hi, hj⟩ := ih
    obtain ⟨k, hik, _, hstep⟩ := exists_seq_taken hrun hfair hflight i hi
    have hmono := seq_step_mono hrun hflight hi hik
    exact ⟨k + 1, by omega, by omega⟩

end FairRun

/-- No frame stays in flight for ever: once at write 64, SEQ's next step is its last (R164). -/
theorem not_inFlightFrom {μ : Nat → Move} {σ : Nat → State} (hrun : IsRun μ σ) (hfair : WeaklyFair .seq μ σ)
    (n : Nat) : ¬ InFlightFrom σ n := by
  intro hflight
  obtain ⟨i, hi, h64⟩ := exists_seq_step_ge hrun hfair hflight 64
  obtain ⟨k, hik, hlt, _⟩ := exists_seq_taken hrun hfair hflight i hi
  have hmono := seq_step_mono hrun hflight hi hik
  omega

/-- Settles O57: were there no such later state, a frame would stay in flight for ever in a block that never halts. -/
theorem fairRunEndsFrame : Obligations.FairRunEndsFrame := by
  unfold Obligations.FairRunEndsFrame
  intro μ σ hrun hfair n
  by_contra hnever
  refine not_inFlightFrom hrun hfair n fun k hk => ?_
  constructor
  · by_contra hidle
    exact hnever ⟨k, hk, .inl (Bool.eq_false_iff.mpr hidle)⟩
  · by_contra herr
    exact hnever ⟨k, hk, .inr herr⟩

end Sys2Proof.Machine
